-- ==== Sys2Proof/Word.lean ====
section
/-! DEFINITION. The word types of the tone timer block and the names of its five timer registers
(spec/10_state.md R32, spec/30_encoding.md R80 to R82). -/

namespace Sys2Proof

/-- One byte: the width of every register and of every access (R11, R63). -/
abbrev Byte := BitVec 8

/-- One command word (R80). -/
abbrev CmdWord := BitVec 16

/-- The addressable timer registers (R32, R82). Numbers 2 and 6..15 name no register. -/
inductive Reg where
  /-- 0: the wave-generation-mode register. -/
  | tmode
  /-- 1: the prescaler-select register. -/
  | tpresc
  /-- 3: the compare register. -/
  | tcmp
  /-- 4: the interrupt-enable-mask register. -/
  | timsk
  /-- 5: the pending-flag register. -/
  | tifr
  deriving DecidableEq, Repr

end Sys2Proof
end

