-- ==== Sys2Proof/Config.lean ====
section
/-! DEFINITION. What an instance of the block fixes (spec/00_scope.md R11, R12), the three agents (R16), and the free
values: the choices the spec leaves open, opaque constants of which nothing can be proved. -/

namespace Sys2Proof

/-- The three agents that can take a step (R16). -/
inductive Agent where
  | mainline
  | timer
  | interrupt
  deriving DecidableEq, Repr, Inhabited

/-- The parameters of a model instance (R11): arguments of the model, so they stand in the state, which no step changes
in them, and every statement about all states is about all instances. -/
structure Params where
  /-- `CLOCK_HZ`, the system clock frequency. -/
  clockHz : Nat
  /-- `DIVIDERS`, the prescaler's divider set; its length is `N_DIV`. -/
  dividers : List Nat
  /-- `PIN_BIT`, the owned bit of the GPIO port. -/
  pinBit : Fin 8
  /-- `TIMER_BASE`, the byte address of timer register 0. -/
  timerBase : Nat
  /-- `GPIO_BASE`, the byte address of the GPIO port. -/
  gpioBase : Nat
  /-- `LATCH_WHILE_MASKED`: a masked compare match sets the pending flag (D12). -/
  latchWhileMasked : Bool
  /-- `BUDGET_MAX`; `none` is unbounded (D25). -/
  budgetMax : Option Nat
  /-- The model's own parameter: `is_active` before `PINIT` is refused, as R294's last sentence says, or runs, as R228's
  "It needs no capability" says (log entry 24). -/
  gateIsActive : Bool
  deriving DecidableEq, Repr

/-- `N_DIV` (R11). -/
def Params.nDiv (p : Params) : Nat := p.dividers.length

/-- The default instance: the divider set, `LATCH_WHILE_MASKED` and `BUDGET_MAX` of spec/95_test_vectors.md's opening,
with 1,000,000 for `CLOCK_HZ` (the worked example's clock). DESIGN CHOICE, unsafe for a statement about it alone: the
spec leaves `CLOCK_HZ`, `PIN_BIT`, `TIMER_BASE`, `GPIO_BASE` and `LATCH_WHILE_MASKED` OPEN (log entry 1), and its rules
differ on `gateIsActive` (log entry 24). -/
def Params.default : Params where
  clockHz := 1000000
  dividers := [1, 8, 32, 64, 128, 256, 1024]
  pinBit := 0
  timerBase := 0
  gpioBase := 16
  latchWhileMasked := true
  budgetMax := none
  gateIsActive := true

/-- The free value behind `draw(S)` (R15): the `n`-th draw of the run, before it is brought into the set drawn from
(log entry 4). -/
opaque Config.freeDraw : Nat → Nat

/-- The free value behind the order of the agents' steps (R16, R266): the agent whose turn it is where the schedule held
in the state is used up (log entry 5). -/
opaque Config.freeAgent : Nat → Agent

end Sys2Proof
end

