-- ==== Sys2Proof/Syntax.lean ====
section
/-! DEFINITION. The ten commands of the block (spec/30_encoding.md R84), one constructor per row of the opcode table. -/

namespace Sys2Proof

/-- A decoded command. A register operand is one of the five registers, an `IMM8` a byte (R82, R83), so every term is an
encodable command: a reserved register number and a nonzero must-be-zero field cannot be written down. -/
inductive Instr where
  /-- `WR reg, imm8` (R132). -/
  | wr (reg : Reg) (imm : Byte)
  /-- `RD reg` (R133). -/
  | rd (reg : Reg)
  /-- `SETB reg, mask` (R134). -/
  | setb (reg : Reg) (mask : Byte)
  /-- `CLRB reg, mask` (R135). -/
  | clrb (reg : Reg) (mask : Byte)
  /-- `PTOG` (R180). -/
  | ptog
  /-- `PSET` (R181). -/
  | pset
  /-- `PCLR` (R182). -/
  | pclr
  /-- `PRD` (R183). -/
  | prd
  /-- `GIEW b` (R140). -/
  | giew (b : Bool)
  /-- `GIER` (R141). -/
  | gier
  deriving DecidableEq, Repr

end Sys2Proof
end

