-- ==== Sys2Proof/Machine/Script.lean ====
section
/-! DEFINITION. What Mainline's script is made of and what its calls return: durations and budgets (spec/00_scope.md R18),
API results (spec/60_exceptions.md R256), script items (spec/30_encoding.md R93, R97), and the steps of a tone-API call in
progress (spec/45_tone_api.md). -/

namespace Sys2Proof.Machine

/-- A tone's duration: a natural count of milliseconds, or indefinite (R118). -/
inductive Duration where
  | finite (ms : Nat)
  | indefinite
  deriving DecidableEq, Repr

/-- The ToggleBudget (R46). -/
inductive Budget where
  | finite (n : Nat)
  | indefinite
  deriving DecidableEq, Repr

/-- A TimerProgram, the pair `(prescaler_index, compare_value)` (R18). -/
structure TimerProgram where
  prescalerIndex : Nat
  compareValue : Nat
  deriving DecidableEq, Repr

/-- The two typed errors of the tone API (R256). -/
inductive ApiError where
  | zeroFrequency
  | frequencyTooLow
  deriving DecidableEq, Repr

/-- What a Mainline item returns (R31, R256, R312). -/
inductive Result where
  /-- The byte a `RD`, `PRD` or `GIER` returns. -/
  | value (v : Byte)
  /-- `Ok(())` of `start_tone`. -/
  | started
  /-- `Err(e)` of `start_tone`. -/
  | startError (e : ApiError)
  /-- `()` of `stop_tone`. -/
  | stopped
  /-- The Boolean of `is_active`. -/
  | active (b : Bool)
  deriving DecidableEq, Repr

/-- One step of a tone-API call: each command and each access of `budget` is one (45_tone_api, introduction). -/
inductive CallOp where
  /-- `s <- GIER`, the first half of `CS_ENTER` (R220). -/
  | save
  /-- A command. -/
  | cmd (i : Instr)
  /-- `budget <- b`. -/
  | setBudget (b : Budget)
  /-- `r <- (budget is ACTIVE)` (R228). -/
  | readActive
  /-- `GIEW s`, `CS_EXIT` (R220). -/
  | restore
  deriving DecidableEq, Repr

/-- A tone-API call in progress: the steps still to take and the value it will return. -/
structure Call where
  ops : List CallOp
  ret : Result
  deriving DecidableEq, Repr

/-- An item of the Mainline script (R30, R93). -/
inductive Item where
  /-- A command word, decoded when it runs. -/
  | command (w : CmdWord)
  /-- The boot step `PINIT` (R293). -/
  | pinit
  /-- `start_tone(f, d)` (R222). -/
  | startTone (f : Nat) (d : Duration)
  /-- `stop_tone()` (R226). -/
  | stopTone
  /-- `is_active()` (R228). -/
  | isActive
  /-- `s <- GIER`, the first half of the pseudo-operation `CS_ENTER` in a script (R97). -/
  | saveGie
  /-- `GIEW s`, the pseudo-operation `CS_EXIT` in a script (R97). -/
  | restoreGie
  deriving DecidableEq, Repr

end Sys2Proof.Machine
end

