-- ==== Sys2Proof/Machine/State.lean ====
section
/-! DEFINITION. The state of the tone timer block (spec/10_state.md R30 to R51), plain data, with the reasons a run can
stop (spec/60_exceptions.md R252, R255) and the state after reset (R51, R290). -/

namespace Sys2Proof.Machine

/-- The fault reasons, all of R252: "No other fault exists". Raising one is a next state with the mark `State.fault`
(R250); the step after it stops with that reason, because no agent has a step. -/
inductive Fault where
  /-- Raised by Mainline when the decoder rejects a word for its operation or a must-be-zero field (R87). Safe: the
  spec's own stop. -/
  | illegalCommand (w : CmdWord)
  /-- Raised by Mainline when the decoder rejects a word for its register number (R88), and by a bus access to a reserved
  number (R39). Safe: the spec's own stop. -/
  | reservedRegister (w : CmdWord)
  /-- Raised by `WR` and `SETB` for a 1 written to a reserved bit (R131). Safe: the spec's own stop. -/
  | reservedBit (w : CmdWord)
  /-- Raised by `WR` and `SETB` on `TPRESC` for `CS > N_DIV` (R131). Safe: the spec's own stop. -/
  | reservedPrescaler (w : CmdWord)
  /-- Raised by the Timer for a tick in a mode other than CTC; records `WGM` (R166). Safe: the spec's own stop. -/
  | unmodelledMode (wgm : BitVec 2)
  deriving DecidableEq, Repr

/-- The refusal reasons: those of R255, and one of the model's own. Refusing is a next state with the mark
`State.refused` (R251); the step after it stops with that reason. -/
inductive Refusal where
  /-- Raised by `start_tone` when `CLOCK_HZ / (2f) = 0` (R112). Safe: the spec's own refusal. -/
  | encoderUnderflow
  /-- Raised by `start_tone` with `Finite 0` (R222). Safe: the spec's own refusal. -/
  | zeroDuration
  /-- Raised by `start_tone` for a budget above `BUDGET_MAX` (R222). Safe: the spec's own refusal. -/
  | budgetTooLarge
  /-- Raised by a pin write command, `start_tone`, `stop_tone` or a handler step without the capability (R185, R207), and
  by `is_active` on an instance with `gateIsActive` (R294).
  Safe: the spec's own refusal. -/
  | noCapability
  /-- Raised by `PRD` before `PINIT` (R183). Safe: the spec's own refusal. -/
  | pinUnspecified
  /-- Raised by a second `PINIT` (R293). Safe: the spec's own refusal. -/
  | capabilityTwice
  /-- Raised by the first step of an instance outside R12. Safe: the spec's own refusal. -/
  | badParameters
  /-- The model's own: a command that has no meaning yet, rejected by name. None is left. Safe. -/
  | notModelled (mnemonic : String)
  deriving DecidableEq, Repr

/-- The state of the machine. -/
structure State where
  /-- The instance's parameters, which no step changes (R11). -/
  params : Params
  /-- `TMODE.WGM` (R33). -/
  wgm : BitVec 2
  /-- `TPRESC.CS` (R35). -/
  cs : BitVec 3
  /-- `TCMP.OCR` (R36). -/
  ocr : Byte
  /-- `TIMSK.OCIE` (R37). -/
  ocie : Bool
  /-- The compare-match pending flag, read as `TIFR.OCF` (R38, R42). -/
  flag : Bool
  /-- The counter (R40). -/
  cnt : Byte
  /-- The prescaler's position (R41). -/
  phase : Nat
  /-- The global interrupt enable (R43). -/
  gie : Bool
  /-- The output level of the owned GPIO bit; `true` is high (R45). -/
  pin : Bool
  /-- The ToggleBudget (R46). -/
  budget : Budget
  /-- The PinCapability has been obtained (R47). -/
  capTaken : Bool
  /-- The first fault raised, if any (R48, R250). -/
  fault : Option Fault
  /-- The refusal mark with the reason kept (R48, R251). -/
  refused : Option Refusal
  /-- Mainline's script (R30). -/
  script : List Item
  /-- The index of Mainline's next item (R30). -/
  mpos : Nat
  /-- The tone-API call in progress, if any (45_tone_api). -/
  call : Option Call
  /-- The values of `s` Mainline holds across critical sections, newest first (R97, R221). -/
  held : List Bool
  /-- The results returned to Mainline, in order (R311). -/
  results : List Result
  /-- The model's own: the value the last command handed to its agent, until Mainline takes it (R31, log entry 9). -/
  answer : Option Byte
  /-- The model's own: the agents' next turns, where they are given as data (R266, log entry 5). -/
  schedule : List Agent
  /-- The model's own: how many free choices have been made, so that each is fresh (R15, log entry 4). -/
  draws : Nat
  deriving DecidableEq, Repr

/-- The reset state of the instance `p` (R51, R290). DESIGN CHOICE: `phase` (log entry 2) and `pin` (log entry 3) at 0,
and the model's own fields empty (log entries 4, 5, 8 to 10). -/
def State.resetOf (p : Params) : State where
  params := p
  wgm := 0
  cs := 0
  ocr := 0
  ocie := false
  flag := false
  cnt := 0
  phase := 0
  gie := false
  pin := false
  budget := .finite 0
  capTaken := false
  fault := none
  refused := none
  script := []
  mpos := 0
  call := none
  held := []
  results := []
  answer := none
  schedule := []
  draws := 0

/-- The machine right after reset: that of the default instance (log entry 1). -/
def State.reset : State := State.resetOf Params.default

end Sys2Proof.Machine
end

