-- ==== Sys2Proof/Machine/Flags.lean ====
section
/-! DEFINITION. The status bits (spec/10_state.md R49): how a bit reads as a byte (spec/41_timer_controller.md R130, R141;
spec/43_gpio.md R183), what sets and clears the pending flag (R42), and the derived signals `irq_request` (R44) and
ACTIVE (R49, R201). -/

namespace Sys2Proof.Machine

/-- `zext_8(b)` (R14). -/
def bitByte (b : Bool) : Byte := if b then 0x01 else 0x00

/-- The byte with `b` in bit 1 and zeros elsewhere, the form of `TIMSK` and `TIFR` (R130). -/
def bit1Byte (b : Bool) : Byte := if b then 0x02 else 0x00

/-- A compare match sets the flag if `OCIE = 1` or `LATCH_WHILE_MASKED`, and otherwise leaves it (R164). -/
def flagAfterMatch (s : State) : Bool := s.flag || s.ocie || s.params.latchWhileMasked

/-- A write to `TIFR` clears the flag where bit 1 of the data is 1, and otherwise leaves it (R38, R131). -/
def flagAfterTifrWrite (v : Byte) (flag : Bool) : Bool := flag && !v.getLsbD 1

/-- `irq_request = flag ∧ OCIE ∧ gie` (R44). -/
def irqRequest (s : State) : Bool := s.flag && s.ocie && s.gie

/-- ACTIVE: the budget is indefinite or above zero (R49, R201); otherwise DONE. -/
def isActive : Budget → Bool
  | .indefinite => true
  | .finite n => decide (0 < n)

/-- A fault or a refusal has been recorded: from then on no agent has a step (R250, R251). -/
def marked (s : State) : Bool := s.fault.isSome || s.refused.isSome

end Sys2Proof.Machine
end

