-- ==== Sys2Proof/Decode.lean ====
section
/-! DEFINITION. Decoding of the 16-bit command word (spec/30_encoding.md R80 to R90), total and rejecting by name, then
the encoder, written from the same table (R84), and the opcode table's match and mask pairs. -/

namespace Sys2Proof

/-- Why a word is no command (R86, R252); each records the word. -/
inductive Reject where
  /-- The operation is 0x0 or 0xB..0xF, or a must-be-zero field is nonzero (R87). -/
  | illegalCommand (w : CmdWord)
  /-- A register operand is numbered 2 or 6..15 (R88). -/
  | reservedRegister (w : CmdWord)
  deriving DecidableEq, Repr

/-- `OP = w[15:12]` (R81). -/
def opField (w : CmdWord) : BitVec 4 := w.extractLsb' 12 4

/-- `REG = w[11:8]` (R81). -/
def regField (w : CmdWord) : BitVec 4 := w.extractLsb' 8 4

/-- `IMM8 = w[7:0]` (R81). -/
def immField (w : CmdWord) : Byte := w.extractLsb' 0 8

/-- `w[11:0]`, zero in a command without operands (R86). -/
def operandBits (w : CmdWord) : BitVec 12 := w.extractLsb' 0 12

/-- `w[11:1]`, zero in `GIEW` (R86). -/
def giewZeroBits (w : CmdWord) : BitVec 11 := w.extractLsb' 1 11

/-- The register a 4-bit register number names (R82); 2 and 6..15 are reserved. -/
def regOfNumber (n : BitVec 4) : Option Reg :=
  if n = 0#4 then some .tmode
  else if n = 1#4 then some .tpresc
  else if n = 3#4 then some .tcmp
  else if n = 4#4 then some .timsk
  else if n = 5#4 then some .tifr
  else none

/-- The number of a register (R82). -/
def numberOfReg : Reg → BitVec 4
  | .tmode => 0#4
  | .tpresc => 1#4
  | .tcmp => 3#4
  | .timsk => 4#4
  | .tifr => 5#4

/-- Operations with no operand field: `PTOG`, `PSET`, `PCLR`, `PRD`, `GIER` (R84, R86). -/
def takesNoOperand (op : BitVec 4) : Bool :=
  op == 0x5#4 || op == 0x6#4 || op == 0x7#4 || op == 0x8#4 || op == 0xA#4

/-- The last check of R86: the register operand of `WR`, `RD`, `SETB` and `CLRB`. -/
def withReg (w : CmdWord) (mk : Reg → Instr) : Except Reject Instr :=
  match regOfNumber (regField w) with
  | some r => .ok (mk r)
  | none => .error (.reservedRegister w)

/-- `decode` of R86: the checks in its order; the first that fails names the rejection. -/
def decode (w : CmdWord) : Except Reject Instr :=
  let op := opField w
  if op = 0x0#4 ∨ 0xB#4 ≤ op then .error (.illegalCommand w)
  else if takesNoOperand op = true ∧ operandBits w ≠ 0 then .error (.illegalCommand w)
  else if op = 0x9#4 ∧ giewZeroBits w ≠ 0 then .error (.illegalCommand w)
  else if op = 0x2#4 ∧ immField w ≠ 0 then .error (.illegalCommand w)
  else if op = 0x1#4 then withReg w fun r => .wr r (immField w)
  else if op = 0x2#4 then withReg w fun r => .rd r
  else if op = 0x3#4 then withReg w fun r => .setb r (immField w)
  else if op = 0x4#4 then withReg w fun r => .clrb r (immField w)
  else if op = 0x5#4 then .ok .ptog
  else if op = 0x6#4 then .ok .pset
  else if op = 0x7#4 then .ok .pclr
  else if op = 0x8#4 then .ok .prd
  else if op = 0x9#4 then .ok (.giew (w.getLsbD 0))
  else .ok .gier

/-- The word with the given fields (R81). -/
def packWord (op reg : BitVec 4) (imm : Byte) : CmdWord := op ++ (reg ++ imm)

/-- The word of a command (R84, R85). -/
def encode : Instr → CmdWord
  | .wr r v => packWord 0x1#4 (numberOfReg r) v
  | .rd r => packWord 0x2#4 (numberOfReg r) 0
  | .setb r m => packWord 0x3#4 (numberOfReg r) m
  | .clrb r m => packWord 0x4#4 (numberOfReg r) m
  | .ptog => packWord 0x5#4 0 0
  | .pset => packWord 0x6#4 0 0
  | .pclr => packWord 0x7#4 0 0
  | .prd => packWord 0x8#4 0 0
  | .giew b => packWord 0x9#4 0 (if b then 1 else 0)
  | .gier => packWord 0xA#4 0 0

/-- Which of the ten commands a term is: the row of the opcode table. -/
inductive Op where
  | wr | rd | setb | clrb | ptog | pset | pclr | prd | giew | gier
  deriving DecidableEq, Repr

/-- The row of a command. -/
def opOf : Instr → Op
  | .wr _ _ => .wr
  | .rd _ => .rd
  | .setb _ _ => .setb
  | .clrb _ _ => .clrb
  | .ptog => .ptog
  | .pset => .pset
  | .pclr => .pclr
  | .prd => .prd
  | .giew _ => .giew
  | .gier => .gier

/-- One row of the opcode table: a word `w` belongs to it when `w` masked by `mask` is `pattern`. -/
structure OpRow where
  op : Op
  pattern : CmdWord
  mask : CmdWord
  deriving DecidableEq, Repr

/-- The match and mask pairs of R84. -/
def opTable : List OpRow :=
  [⟨.wr, 0x1000, 0xF000⟩, ⟨.rd, 0x2000, 0xF0FF⟩, ⟨.setb, 0x3000, 0xF000⟩, ⟨.clrb, 0x4000, 0xF000⟩,
   ⟨.ptog, 0x5000, 0xFFFF⟩, ⟨.pset, 0x6000, 0xFFFF⟩, ⟨.pclr, 0x7000, 0xFFFF⟩, ⟨.prd, 0x8000, 0xFFFF⟩,
   ⟨.giew, 0x9000, 0xFFFE⟩, ⟨.gier, 0xA000, 0xFFFF⟩]

/-- A word matches a row of the table (R84). -/
def OpRow.accepts (r : OpRow) (w : CmdWord) : Bool := (w &&& r.mask) == r.pattern

/-- What the decoder reads from the opcode table's numbering of a word: the block has one 16-bit form (R80), so the bits
`w` of a row are the command word itself, its upper bits zero where `nbits` is less than 16. -/
def decodeTableWord (nbits w : Nat) : Option Instr :=
  if nbits ≤ 16 then
    match decode (BitVec.ofNat 16 (w % 2 ^ nbits)) with
    | .ok i => some i
    | .error _ => none
  else none

end Sys2Proof
end

