-- ==== Sys2Proof/Machine/Operands.lean ====
section
/-! DEFINITION. Operand forms: the register operand and its bus address (spec/20_memory.md R60, R61), the reserved bits of
each register (spec/10_state.md R33 to R39), the data of a write (spec/41_timer_controller.md R132, R134, R135), and the
assembler's names for bits and prescaler taps (spec/30_encoding.md R92). -/

namespace Sys2Proof.Machine

/-- The reserved bits of a register: they read 0, and a 1 written to one faults (R33, R35 to R39, R131). -/
def reservedMask : Reg → Byte
  | .tmode => 0xFC
  | .tpresc => 0xF8
  | .tcmp => 0x00
  | .timsk => 0xFD
  | .tifr => 0xFD

/-- The value `SETB` writes: the OR of the register with the mask (R39, R134). -/
def setBits (old mask : Byte) : Byte := old ||| mask

/-- The value `CLRB` writes: the AND of the register with the complement of the mask (R39, R135). -/
def clearBits (old mask : Byte) : Byte := old &&& ~~~mask

/-- `CTC`, the mask name for `WGM = 0b10` in `TMODE` (R92). -/
def maskCTC : Byte := 0x02

/-- `OCIE`, the mask name for bit 1 of `TIMSK` (R92). -/
def maskOCIE : Byte := 0x02

/-- `OCF`, the mask name for bit 1 of `TIFR` (R92). -/
def maskOCF : Byte := 0x02

/-- `CS(i)`, the number `i + 1` that selects prescaler index `i` (R92). -/
def csValue (i : Nat) : Byte := BitVec.ofNat 8 (i + 1)

/-- The byte address of a register, `TIMER_BASE + REG` (R61). -/
def registerAddress (p : Params) (r : Reg) : Nat := p.timerBase + (numberOfReg r).toNat

/-- What an access to a byte address reaches, on behalf of the command word `w`, which a fault records: in the timer
window a register (R60, R61), or the fault of a reserved number (R39); outside the window none (log entry 17). -/
def registerAt (w : CmdWord) (p : Params) (a : Nat) : Option (Except Fault Reg) :=
  if p.timerBase ≤ a ∧ a < p.timerBase + 16 then
    match regOfNumber (BitVec.ofNat 4 (a - p.timerBase)) with
    | some r => some (.ok r)
    | none => some (.error (.reservedRegister w))
  else none

/-- What an address window holds (R60). -/
inductive WindowKind where
  /-- The timer window: one byte per register number. -/
  | timerRegisters
  /-- The GPIO port byte, of which one bit belongs to the block. -/
  | gpioPort (bit : Fin 8)
  deriving DecidableEq, Repr

/-- An address window of the block. -/
structure Window where
  base : Nat
  size : Nat
  kind : WindowKind
  deriving DecidableEq, Repr

/-- "The block has exactly two address windows" (R60, R272). -/
def addressMap (p : Params) : List Window :=
  [⟨p.timerBase, 16, .timerRegisters⟩, ⟨p.gpioBase, 1, .gpioPort p.pinBit⟩]

end Sys2Proof.Machine
end

