-- ==== Sys2Proof/Machine/Ops.lean ====
section
/-! DEFINITION. The shared operations on the state: raising a fault and refusing (spec/60_exceptions.md R250, R251), the
interrupt's entry and exit (R262, R264), the free draw (spec/00_scope.md R15), the prescaler's divider
(spec/10_state.md R35), register access (spec/41_timer_controller.md R130, R131) and its bus form (spec/20_memory.md
R61), the pin behind its capability gate (spec/43_gpio.md R185), and Mainline's bookkeeping (spec/10_state.md R30). -/

namespace Sys2Proof.Machine

/-- One step's outcome in the host's terms. -/
abbrev Outcome := Host.Outcome State Fault Refusal

/-- How an effect stops part way: `raise Fault(r)` or `refuse(r)` (R15). -/
inductive Stop where
  | fault (r : Fault)
  | refusal (r : Refusal)
  deriving DecidableEq, Repr

/-- The effect of a command or of a handler: the state it leaves, or the fault or refusal it raises. -/
abbrev Effect := Except Stop State

/-- Run `f` where the effect so far has not stopped. -/
def Effect.andThen (e : Effect) (f : State → Effect) : Effect :=
  match e with
  | .ok t => f t
  | .error x => .error x

/-- `raise Fault(r)`: the first fault is recorded; every other field stays (R250). -/
def raiseFault (r : Fault) (s : State) : State :=
  { s with fault := match s.fault with | none => some r | some old => some old }

/-- `refuse(r)`: the mark is set and the first reason kept; every other field stays (R251). -/
def refuse (r : Refusal) (s : State) : State :=
  { s with refused := match s.refused with | none => some r | some old => some old }

/-- Record a stop in the state the step began with. -/
def recordStop : Stop → State → State
  | .fault r, s => raiseFault r s
  | .refusal r, s => refuse r s

/-- The step from `s` with effect `e`: its state, or `s` with the mark, so that a step that stops has no partial effect
(R250, R251, R253). -/
def settle (s : State) (e : Effect) : Outcome :=
  match e with
  | .ok t => .next t
  | .error x => .next (recordStop x s)

/-- Go on from a step's outcome, unless the step recorded a fault or a refusal. -/
def thenUnmarked (o : Outcome) (k : State → Outcome) : Outcome :=
  match o with
  | .next t => if marked t then .next t else k t
  | .fault r => .fault r
  | .refused r => .refused r

/-- `DIVIDERS[CS-1]`, the divider that a prescaler select value names (R35). It is 0 for 0 and for a select above
`N_DIV`, which `TPRESC` never holds (log entry 13). -/
def divider (p : Params) (cs : BitVec 3) : Nat :=
  match cs.toNat with
  | 0 => 0
  | k + 1 => p.dividers.getD k 0

/-- `draw({0, …, d - 1})`: the free value, brought below `d` (R15, log entry 4). -/
def drawBelow (n d : Nat) : Nat := Config.freeDraw n % d

/-- Write `CS`: a change to a nonzero value redraws `phase`, and nothing else changes (R131, R161). -/
def selectPrescaler (k : BitVec 3) (s : State) : State :=
  if k ≠ 0 ∧ k ≠ s.cs then
    { s with cs := k, phase := drawBelow s.draws (divider s.params k), draws := s.draws + 1 }
  else { s with cs := k }

/-- `RegRead(REG)` (R130). -/
def regRead (r : Reg) (s : State) : Byte :=
  match r with
  | .tmode => s.wgm.setWidth 8
  | .tpresc => s.cs.setWidth 8
  | .tcmp => s.ocr
  | .timsk => bit1Byte s.ocie
  | .tifr => bit1Byte s.flag

/-- `RegWrite(REG, v)` on behalf of the command word `w`, which a fault records (R131, R252): first the reserved bits,
then for `TPRESC` the range of `CS` (R254). -/
def regWrite (w : CmdWord) (r : Reg) (v : Byte) (s : State) : Effect :=
  if v &&& reservedMask r ≠ 0 then .error (.fault (.reservedBit w))
  else
    match r with
    | .tmode => .ok { s with wgm := v.extractLsb' 0 2 }
    | .tpresc =>
      if s.params.nDiv < (v.extractLsb' 0 3).toNat then .error (.fault (.reservedPrescaler w))
      else .ok (selectPrescaler (v.extractLsb' 0 3) s)
    | .tcmp => .ok { s with ocr := v }
    | .timsk => .ok { s with ocie := v.getLsbD 1 }
    | .tifr => .ok { s with flag := flagAfterTifrWrite v s.flag }

/-- `MemRead(a, 1)`: the register at a bus address (R15, R61), the fault of a reserved number (R39), or none outside the
timer window (log entry 17). -/
def memRead (w : CmdWord) (a : Nat) (s : State) : Option (Except Stop Byte) :=
  match registerAt w s.params a with
  | some (.ok r) => some (.ok (regRead r s))
  | some (.error e) => some (.error (.fault e))
  | none => none

/-- `MemWrite(a, 1, v)`: the same as writing the register at a bus address (R15, R61), the fault of a reserved number
(R39), or none outside the timer window (log entry 17). -/
def memWrite (w : CmdWord) (a : Nat) (v : Byte) (s : State) : Option Effect :=
  match registerAt w s.params a with
  | some (.ok r) => some (regWrite w r v s)
  | some (.error e) => some (.error (.fault e))
  | none => none

/-- The effect of `WR reg, v` (R132). -/
def writeEffect (r : Reg) (v : Byte) (s : State) : Effect :=
  regWrite (encode (.wr r v)) r v s

/-- The effect of `SETB reg, m`: one atomic read-modify-write (R134). -/
def setEffect (r : Reg) (m : Byte) (s : State) : Effect :=
  regWrite (encode (.setb r m)) r (setBits (regRead r s) m) s

/-- The effect of `CLRB reg, m`: one atomic read-modify-write (R135). -/
def clearEffect (r : Reg) (m : Byte) (s : State) : Effect :=
  regWrite (encode (.clrb r m)) r (clearBits (regRead r s) m) s

/-- Give the pin a level, behind `require_capability()` (R180 to R182, R185). -/
def pinEffect (level : Bool) (s : State) : Effect :=
  if s.capTaken then .ok { s with pin := level } else .error (.refusal .noCapability)

/-- Hand a read value to the issuing agent; no field of the block changes (R31, R66). -/
def handOver (v : Byte) (s : State) : State := { s with answer := some v }

/-- TAKING THE INTERRUPT: `gie <- 0; flag <- 0`; nothing else is saved (R262). -/
def interruptEntry (s : State) : State := { s with gie := false, flag := false }

/-- THE RETURN from it: `gie <- 1` (R262, R264). -/
def interruptExit (s : State) : State := { s with gie := true }

/-- A script item is complete: `mpos` advances by one, and its result, if any, is Mainline's next (R30, R311). -/
def itemDone (r : Option Result) (s : State) : State :=
  { s with mpos := s.mpos + 1, results := s.results ++ r.toList }

/-- A command of the script is complete: Mainline takes the value the command handed over, if any (R31). -/
def commandDone (s : State) : State :=
  itemDone (s.answer.map .value) { s with answer := none }

/-- A list with `x` at position `n`; positions below `n` that are missing are filled with `x` too. -/
def placeAt {α : Type} (x : α) : Nat → List α → List α
  | 0, [] => [x]
  | 0, _ :: rest => x :: rest
  | n + 1, [] => x :: placeAt x n []
  | n + 1, y :: rest => y :: placeAt x n rest

end Sys2Proof.Machine
end

