-- ==== Sys2Proof/Machine/Handler.lean ====
section
/-! DEFINITION. The Interrupt agent: delivery, the compare-match handler and the return, one atomic step
(spec/44_toggle_handler.md R202 to R207, spec/60_exceptions.md R260 to R265). -/

namespace Sys2Proof.Machine

/-- `PTOG` inside the handler (R202). -/
def handlerToggle (s : State) : Effect := pinEffect (!s.pin) s

/-- The terminal branch: `CLRB TIMSK, OCIE`, then `PCLR` (R205, R301). -/
def handlerTerminal (s : State) : Effect :=
  (clearEffect .timsk maskOCIE s).andThen (pinEffect false)

/-- `handler_body()` (R202): indefinite (R203), finite and positive (R204), finite and zero (R205). -/
def handlerBody (s : State) : Effect :=
  match s.budget with
  | .indefinite => handlerToggle s
  | .finite (n + 1) => (handlerToggle s).andThen fun t => .ok { t with budget := .finite n }
  | .finite 0 => handlerTerminal s

/-- `interrupt_step()` (R262): entry, body, exit; a refusal in the body leaves the state as it was before the step
(R207, R251). -/
def interruptStep (s : State) : Outcome :=
  settle s ((handlerBody (interruptEntry s)).andThen fun t => .ok (interruptExit t))

end Sys2Proof.Machine
end

