-- ==== Sys2Proof/Machine/GlobalEnable.lean ====
section
/-! DEFINITION. The global interrupt enable commands `GIEW` and `GIER` (spec/41_timer_controller.md R140, R141). -/

namespace Sys2Proof.Machine

/-- `GIEW b`: `gie <- b` (R140). -/
def execGiew (b : Bool) (s : State) : Outcome := .next { s with gie := b }

/-- `GIER`: returns `zext_8(gie)` (R141). -/
def execGier (s : State) : Outcome := .next (handOver (bitByte s.gie) s)

end Sys2Proof.Machine
end

