-- ==== Sys2Proof/Machine/Gpio.lean ====
section
/-! DEFINITION. The pin commands `PTOG`, `PSET`, `PCLR`, `PRD` (spec/43_gpio.md R180 to R185). -/

namespace Sys2Proof.Machine

/-- `PTOG`: `require_capability(); pin <- 1 - pin` (R180). -/
def execPtog (s : State) : Outcome := settle s (pinEffect (!s.pin) s)

/-- `PSET`: `require_capability(); pin <- 1` (R181). -/
def execPset (s : State) : Outcome := settle s (pinEffect true s)

/-- `PCLR`: `require_capability(); pin <- 0` (R182). -/
def execPclr (s : State) : Outcome := settle s (pinEffect false s)

/-- `PRD`: returns the driven level; refused before `PINIT`, when the pin holds no value (R183). -/
def execPrd (s : State) : Outcome :=
  if s.capTaken then .next (handOver (bitByte s.pin) s) else .next (refuse .pinUnspecified s)

end Sys2Proof.Machine
end

