-- ==== Sys2Proof/Machine/Registers.lean ====
section
/-! DEFINITION. The register commands `WR`, `RD`, `SETB`, `CLRB` (spec/41_timer_controller.md R132 to R135). A reserved
register number never reaches them: the decoder rejects it (R88). -/

namespace Sys2Proof.Machine

/-- `WR reg, imm8` (R132). -/
def execWr (r : Reg) (v : Byte) (s : State) : Outcome := settle s (writeEffect r v s)

/-- `RD reg` (R133): the value goes to the issuing agent; reading does not acknowledge the flag. -/
def execRd (r : Reg) (s : State) : Outcome := .next (handOver (regRead r s) s)

/-- `SETB reg, mask` (R134). -/
def execSetb (r : Reg) (m : Byte) (s : State) : Outcome := settle s (setEffect r m s)

/-- `CLRB reg, mask` (R135). -/
def execClrb (r : Reg) (m : Byte) (s : State) : Outcome := settle s (clearEffect r m s)

end Sys2Proof.Machine
end

