-- ==== Sys2Proof/Machine/Dispatch.lean ====
section
/-! DEFINITION. One arm per command of the opcode table. -/

namespace Sys2Proof.Machine

def exec (i : Instr) (s : State) : Host.Outcome State Fault Refusal :=
  match i with
  | .wr reg imm => Sys2Proof.Machine.execWr reg imm s
  | .rd reg => Sys2Proof.Machine.execRd reg s
  | .setb reg mask => Sys2Proof.Machine.execSetb reg mask s
  | .clrb reg mask => Sys2Proof.Machine.execClrb reg mask s
  | .ptog => Sys2Proof.Machine.execPtog s
  | .pset => Sys2Proof.Machine.execPset s
  | .pclr => Sys2Proof.Machine.execPclr s
  | .prd => Sys2Proof.Machine.execPrd s
  | .giew b => Sys2Proof.Machine.execGiew b s
  | .gier => Sys2Proof.Machine.execGier s

end Sys2Proof.Machine
end

