-- ==== Sys2Proof/Machine/Encoder.lean ====
section
/-! DEFINITION. The FrequencyEncoder (spec/40_frequency_encoder.md R110 to R121): pure functions over the naturals. -/

namespace Sys2Proof.Machine

/-- The answer of a check made before any command: a value, a typed error of the API, or a refusal (R112, R222). -/
inductive Checked (α : Type) where
  | ok (a : α)
  | err (e : ApiError)
  | refused (r : Refusal)
  deriving DecidableEq, Repr

/-- The loop of R111 with `left` coarser prescalers remaining: one halving per index advance (C1). -/
def advancePrescaler : (left i ticks : Nat) → Nat × Nat
  | 0, i, ticks => (i, ticks)
  | left + 1, i, ticks =>
    if 255 < ticks then advancePrescaler left (i + 1) ((ticks + 1) / 2 - 1) else (i, ticks)

/-- `compute_timer_program(f, C)` on an instance with `nDiv` dividers (R111, R112). -/
def computeTimerProgram (nDiv f c : Nat) : Checked TimerProgram :=
  if f = 0 then .err .zeroFrequency
  else if c / (2 * f) = 0 then .refused .encoderUnderflow
  else
    let found := advancePrescaler (nDiv - 1) 0 (c / (2 * f) - 1)
    if 255 < found.2 then .err .frequencyTooLow
    else .ok ⟨found.1, found.2⟩

/-- `compute_toggle_budget(f, dur)` (R118). -/
def computeToggleBudget (f : Nat) : Duration → Budget
  | .finite d => .finite (2 * f * d / 1000)
  | .indefinite => .indefinite

/-- `b = Finite n` with `n > BUDGET_MAX` (R222). -/
def budgetTooLarge (p : Params) : Budget → Bool
  | .indefinite => false
  | .finite n =>
    match p.budgetMax with
    | none => false
    | some m => decide (m < n)

end Sys2Proof.Machine
end

