-- ==== Sys2Proof/Machine/Pseudo.lean ====
section
/-! DEFINITION. The pseudo-operations and their exact expansions into commands (spec/30_encoding.md R97), which are the
TimerController's operations (spec/41_timer_controller.md R142 to R146) and the critical section's two halves
(spec/45_tone_api.md R220). -/

namespace Sys2Proof.Machine

/-- `CLI` = `GIEW 0`. -/
def opCli : List Instr := [.giew false]

/-- `SEI` = `GIEW 1`. -/
def opSei : List Instr := [.giew true]

/-- `CONFIGURE cv` = `WR TMODE, CTC` ; `WR TCMP, cv` (R142). -/
def opConfigure (cv : Byte) : List Instr := [.wr .tmode maskCTC, .wr .tcmp cv]

/-- `ARM i` = `WR TPRESC, CS(i)` (R143). -/
def opArm (i : Nat) : List Instr := [.wr .tpresc (csValue i)]

/-- `ENABLE_IRQ` = `SETB TIMSK, OCIE` (R144). -/
def opEnableIrq : List Instr := [.setb .timsk maskOCIE]

/-- `DISABLE_IRQ` = `CLRB TIMSK, OCIE` (R145). -/
def opDisableIrq : List Instr := [.clrb .timsk maskOCIE]

/-- `CLEAR_PENDING` = `WR TIFR, OCF` (R146). -/
def opClearPending : List Instr := [.wr .tifr maskOCF]

/-- `FORCE_LOW` = `PCLR`. -/
def opForceLow : List Instr := [.pclr]

/-- `CS_ENTER` = `s <- GIER` ; `GIEW 0` (R220). -/
def csEnter : List CallOp := .save :: opCli.map .cmd

/-- `CS_EXIT` = `GIEW s` (R220). -/
def csExit : List CallOp := [.restore]

/-- A pseudo-operation made of commands, as items of a script. -/
def asItems (l : List Instr) : List Item := l.map fun i => .command (encode i)

/-- `CS_ENTER` as items of a script (R97). -/
def csEnterItems : List Item := .saveGie :: asItems opCli

/-- `CS_EXIT` as items of a script (R97). -/
def csExitItems : List Item := [.restoreGie]

end Sys2Proof.Machine
end

