-- ==== Sys2Proof/Machine/ToneApi.lean ====
section
/-! DEFINITION. The tone API (spec/45_tone_api.md R220 to R230): the checks of `start_tone`, the bodies of the three calls
as the steps their pseudocode lists, and one Mainline step of a call in progress. -/

namespace Sys2Proof.Machine

/-- The checks of R222, in its order, all before any command: the encoder, `ZeroDuration`, the capability,
`BUDGET_MAX`. -/
def startToneChecks (f : Nat) (dur : Duration) (s : State) : Checked (TimerProgram × Budget) :=
  match computeTimerProgram s.params.nDiv f s.params.clockHz with
  | .err e => .err e
  | .refused r => .refused r
  | .ok p =>
    if dur = .finite 0 then .refused .zeroDuration
    else if s.capTaken = false then .refused .noCapability
    else if budgetTooLarge s.params (computeToggleBudget f dur) then .refused .budgetTooLarge
    else .ok (p, computeToggleBudget f dur)

/-- The body of `start_tone` between its critical section's two ends (R223). -/
def startToneBody (p : TimerProgram) (b : Budget) : List CallOp :=
  (opDisableIrq ++ opForceLow ++ opConfigure (BitVec.ofNat 8 p.compareValue) ++ opArm p.prescalerIndex).map .cmd
    ++ [.setBudget b] ++ (opClearPending ++ opEnableIrq).map .cmd

/-- The steps of `start_tone` after its checks (R223). -/
def startToneOps (p : TimerProgram) (b : Budget) : List CallOp := csEnter ++ startToneBody p b ++ csExit

/-- The body of `stop_tone` between its critical section's two ends (R226). -/
def stopToneBody : List CallOp := (opDisableIrq ++ opForceLow).map .cmd ++ [.setBudget (.finite 0)]

/-- The steps of `stop_tone` after its check (R226). -/
def stopToneOps : List CallOp := csEnter ++ stopToneBody ++ csExit

/-- The steps of `is_active` (R228). -/
def isActiveOps : List CallOp := csEnter ++ [.readActive] ++ csExit

/-- `s <- GIER`: the value the command hands over becomes the newest held value (R97, R220), and is no result returned to
Mainline (DESIGN CHOICE, log entry 23). -/
def saveGie (s : State) : Outcome :=
  thenUnmarked (exec .gier s) fun t =>
    .next { t with answer := none, held := (t.answer.map fun v => v.getLsbD 0).toList ++ t.held }

/-- `GIEW s`: the newest held value is written back and no longer held (R97, R220); with none held, the spec states no
value of `s`, and it is a free draw (log entry 10). -/
def restoreGie (s : State) : Outcome :=
  match s.held with
  | b :: rest => exec (.giew b) { s with held := rest }
  | [] => exec (.giew (decide (drawBelow s.draws 2 = 1))) { s with draws := s.draws + 1 }

/-- One step of a call. -/
def callOpStep (op : CallOp) (s : State) : Outcome :=
  match op with
  | .save => saveGie s
  | .cmd i => exec i s
  | .setBudget b => .next { s with budget := b }
  | .readActive => .next s
  | .restore => restoreGie s

/-- The value a call will return, after the step `op` of it: `is_active`'s is the one it reads (R228). -/
def retAfter (op : CallOp) (ret : Result) (s : State) : Result :=
  match op with
  | .readActive => .active (isActive s.budget)
  | .save => ret
  | .cmd _ => ret
  | .setBudget _ => ret
  | .restore => ret

/-- The call returns: its item is complete (R30). -/
def callReturn (ret : Result) (s : State) : State := itemDone (some ret) { s with call := none }

/-- The call goes on with the steps that are left, or returns with its last one. -/
def callContinue (rest : List CallOp) (ret : Result) (s : State) : State :=
  match rest with
  | [] => callReturn ret s
  | op :: ops => { s with call := some ⟨op :: ops, ret⟩ }

/-- One Mainline step of the call `c` in progress. -/
def callStep (c : Call) (s : State) : Outcome :=
  match c.ops with
  | [] => .next (callReturn c.ret s)
  | op :: rest => thenUnmarked (callOpStep op s) fun t => .next (callContinue rest (retAfter op c.ret s) t)

end Sys2Proof.Machine
end

