-- ==== Sys2Proof/Machine/Mainline.lean ====
section
/-! DEFINITION. The Mainline agent (spec/10_state.md R30, spec/00_scope.md R16): one step of its script, and the boot step
`PINIT` (spec/70_reset_and_hazards.md R293). -/

namespace Sys2Proof.Machine

/-- The rejection of a word as the fault it raises (R86, R252). -/
def faultOfReject : Reject → Fault
  | .illegalCommand w => .illegalCommand w
  | .reservedRegister w => .reservedRegister w

/-- A command word of the script: a rejected word faults and `mpos` stays (R87, R88, R253); a command that completes
hands Mainline its value and `mpos` advances (R30, R31). -/
def commandStep (w : CmdWord) (s : State) : Outcome :=
  match decode w with
  | .error e => .next (raiseFault (faultOfReject e) s)
  | .ok i => thenUnmarked (exec i s) fun t => .next (commandDone t)

/-- `PINIT` (R293). -/
def pinitStep (s : State) : Outcome :=
  if s.capTaken then .next (refuse .capabilityTwice s)
  else .next (itemDone none { s with pin := false, capTaken := true })

/-- `start_tone(f, dur)` begins: an error is its result at once (R225), a refusal refuses it, and otherwise its first
step is taken (R222, R223, log entry 11). -/
def startToneStep (f : Nat) (dur : Duration) (s : State) : Outcome :=
  match startToneChecks f dur s with
  | .err e => .next (itemDone (some (.startError e)) s)
  | .refused r => .next (refuse r s)
  | .ok (p, b) => callStep ⟨startToneOps p b, .started⟩ s

/-- `stop_tone()` begins (R226). -/
def stopToneStep (s : State) : Outcome :=
  if s.capTaken then callStep ⟨stopToneOps, .stopped⟩ s else .next (refuse .noCapability s)

/-- `is_active()` begins (R228). Before `PINIT` it is refused on an instance with `gateIsActive` (R294), and runs on one
without (R228, "It needs no capability"): log entry 24. -/
def isActiveStep (s : State) : Outcome :=
  if s.params.gateIsActive && !s.capTaken then .next (refuse .noCapability s)
  else callStep ⟨isActiveOps, .active false⟩ s

/-- The first step of a script item. The two items of a critical section add no result: the value that `CS_ENTER` reads
stays in `held` (DESIGN CHOICE, log entry 23). -/
def itemStep (it : Item) (s : State) : Outcome :=
  match it with
  | .command w => commandStep w s
  | .pinit => pinitStep s
  | .startTone f dur => startToneStep f dur s
  | .stopTone => stopToneStep s
  | .isActive => isActiveStep s
  | .saveGie => thenUnmarked (saveGie s) fun t => .next (itemDone none t)
  | .restoreGie => thenUnmarked (restoreGie s) fun t => .next (itemDone none t)

/-- Mainline has a step: a call is in progress or an item is left (R30, R311). -/
def mainlineReady (s : State) : Bool := s.call.isSome || decide (s.mpos < s.script.length)

/-- One Mainline step (R16): of the call in progress, or of the next item. -/
def mainlineStep (s : State) : Outcome :=
  match s.call with
  | some c => callStep c s
  | none =>
    match s.script[s.mpos]? with
    | some it => itemStep it s
    | none => .next s

end Sys2Proof.Machine
end

