-- ==== Sys2Proof/Machine/Timer.lean ====
section
/-! DEFINITION. The Timer agent (spec/42_timer_counter.md R160 to R172): the prescaler step, the timer tick in CTC mode and
the compare match. -/

namespace Sys2Proof.Machine

/-- `WGM = 0b10` selects CTC (R34). -/
def ctcMode : BitVec 2 := 0b10

/-- A compare match: the pending flag, and nothing else (R164). -/
def compareMatch (s : State) : State := { s with flag := flagAfterMatch s }

/-- `timer_tick()` (R163); a tick in any other mode faults (R166). -/
def timerTick (s : State) : Effect :=
  if s.wgm ≠ ctcMode then .error (.fault (.unmodelledMode s.wgm))
  else if s.cnt = s.ocr then .ok (compareMatch { s with cnt := 0 })
  else .ok { s with cnt := s.cnt + 1 }

/-- One system clock cycle: nothing while `CS = 0` (R160), else the prescaler step (R162). -/
def timerEffect (s : State) : Effect :=
  if s.cs = 0 then .ok s
  else if s.phase + 1 = divider s.params s.cs then timerTick { s with phase := 0 }
  else .ok { s with phase := s.phase + 1 }

/-- The Timer's step (R160). -/
def timerStep (s : State) : Outcome := settle s (timerEffect s)

end Sys2Proof.Machine
end

