-- ==== Sys2Proof/WellFormed.lean ====
section
/-! DEFINITION. The checks on what is given to the model from outside: the instance (spec/00_scope.md R12) and the
Mainline script (spec/30_encoding.md R97). A command (Sys2Proof/Syntax.lean) needs no check: its type holds only encodable
commands, and the checks on a word are the decoder's (R86). -/

namespace Sys2Proof

/-- `DIVIDERS[i] < DIVIDERS[i+1]` throughout (R12). -/
def strictlyRising : List Nat → Bool
  | [] => true
  | [_] => true
  | a :: b :: rest => decide (a < b) && strictlyRising (b :: rest)

/-- R12: `CLOCK_HZ ≥ 1`, `1 ≤ N_DIV ≤ 7`, `DIVIDERS[0] ≥ 1`, `DIVIDERS` strictly rising. -/
def Params.wf (p : Params) : Bool :=
  decide (1 ≤ p.clockHz) && decide (1 ≤ p.nDiv) && decide (p.nDiv ≤ 7) && decide (1 ≤ p.dividers.headD 0)
    && strictlyRising p.dividers

/-- How many values of `s` a script's items leave held, with `depth` held before them; none where a `GIEW s` has no
`s <- GIER` before it (R97, R220). -/
def sectionDepth (depth : Nat) : List Machine.Item → Option Nat
  | [] => some depth
  | .saveGie :: rest => sectionDepth (depth + 1) rest
  | .restoreGie :: rest => if 0 < depth then sectionDepth (depth - 1) rest else none
  | _ :: rest => sectionDepth depth rest

/-- A script is well formed when each `CS_EXIT` has its own `CS_ENTER` before it. -/
def scriptWf (script : List Machine.Item) : Bool := (sectionDepth 0 script).isSome

end Sys2Proof
end

