-- ==== Sys2Proof/Machine/Schedule.lean ====
section
/-! DEFINITION. Whose step is next (spec/00_scope.md R16, spec/60_exceptions.md R261, R266): the agents' enabling
conditions, the turns held in the state, and one step of the whole machine. -/

namespace Sys2Proof.Machine

/-- When an agent has a step: never once a fault or refusal is recorded (R250, R251); the Timer always (R160); the
Interrupt exactly when `irq_request` (R261); Mainline while its script lasts (R30). -/
def enabled (a : Agent) (s : State) : Bool :=
  !marked s &&
    match a with
    | .mainline => mainlineReady s
    | .timer => true
    | .interrupt => irqRequest s

/-- One step of an agent, atomic (R16). -/
def agentStep (a : Agent) (s : State) : Outcome :=
  match a with
  | .mainline => mainlineStep s
  | .timer => timerStep s
  | .interrupt => interruptStep s

/-- Whose turn it is: the schedule's head, or a free choice where the schedule is used up (R266, log entry 5). -/
def turnOf (s : State) : Agent :=
  match s.schedule with
  | a :: _ => a
  | [] => Config.freeAgent s.draws

/-- The turn is used: the schedule's head goes, or the free choice is counted. -/
def turnTaken (s : State) : State :=
  match s.schedule with
  | _ :: rest => { s with schedule := rest }
  | [] => { s with draws := s.draws + 1 }

/-- The agent that steps: the one whose turn it is, or the Timer, always enabled, where that one has no step (R160, log
entry 6). -/
def stepperOf (s : State) : Agent := if enabled (turnOf s) s then turnOf s else .timer

/-- One step of the machine. A recorded fault or refusal stops it for good (R250, R251, R291); an instance outside R12 is
refused (R255); otherwise one agent takes its step. -/
def machineStep (s : State) : Outcome :=
  match s.fault, s.refused with
  | some r, _ => .fault r
  | none, some r => .refused r
  | none, none =>
    if s.params.wf then agentStep (stepperOf s) (turnTaken s) else .next (refuse .badParameters s)

end Sys2Proof.Machine
end

