-- ==== Sys2Proof/Machine/Step.lean ====
section
/-! DEFINITION. The step of the machine, and how one command word is placed so that the very next step runs it. -/

namespace Sys2Proof.Machine

/-- One step (R16). -/
def step (s : State) : Host.Outcome State Fault Refusal := machineStep s

/-- The state with the command word `w` (its bits above `nbits` zero) as Mainline's next item and Mainline's turn next.
The block fetches nothing (R73), so this is the load of a script from outside (log entry 8): the item at `mpos`, no call
in progress, no stop recorded, and the next turn. -/
def State.withFetchWord (s : State) (nbits w : Nat) : State :=
  { s with
    script := placeAt (.command (BitVec.ofNat 16 (w % 2 ^ nbits))) s.mpos s.script
    call := none
    fault := none
    refused := none
    schedule := .mainline :: s.schedule }

end Sys2Proof.Machine
end

