-- ==== Sys2Proof/Safety.lean ====
section
/-! DEFINITION. The terms claims are stated in: the fields of a word as numbers, the invariant of the machine, runs of the
three agents with weak fairness (spec/42_timer_counter.md R160, spec/60_exceptions.md R261), and the end of a run with
its observation (spec/70_reset_and_hazards.md R311). -/

namespace Sys2Proof.Machine

/-! ## The fields of a command word, as numbers (R81) -/

/-- `OP`, as a number. -/
def wordOp (w : CmdWord) : Nat := w.toNat / 0x1000

/-- `REG`, as a number. -/
def wordReg (w : CmdWord) : Nat := w.toNat / 0x100 % 0x10

/-- `IMM8`, as a number. -/
def wordImm (w : CmdWord) : Nat := w.toNat % 0x100

/-- The words R87 calls illegal: an operation 0x0 or 0xB..0xF, or a nonzero must-be-zero field of R84. -/
def illegalWord (w : CmdWord) : Prop :=
  wordOp w = 0 ∨ 0xB ≤ wordOp w
    ∨ (wordOp w ∈ [5, 6, 7, 8, 0xA] ∧ w.toNat % 0x1000 ≠ 0)
    ∨ (wordOp w = 9 ∧ w.toNat % 0x1000 / 2 ≠ 0)
    ∨ (wordOp w = 2 ∧ wordImm w ≠ 0)

/-- The words R88 is about: a `WR`, `RD`, `SETB` or `CLRB` word whose register number is 2 or 6..15. -/
def reservedRegisterWord (w : CmdWord) : Prop :=
  (wordOp w = 1 ∨ (wordOp w = 2 ∧ wordImm w = 0) ∨ wordOp w = 3 ∨ wordOp w = 4)
    ∧ (wordReg w = 2 ∨ 6 ≤ wordReg w)

/-! ## The invariant -/

/-- A command a tone-API call issues between the ends of its critical section: it reads nothing, leaves `gie`, and on
this instance and with this capability its data are legal. -/
def bodyCommandOk (p : Params) (cap : Bool) : Instr → Bool
  | .wr r v => v &&& reservedMask r == 0 && (r != .tpresc || decide ((v.extractLsb' 0 3).toNat ≤ p.nDiv))
  | .setb r m => m &&& reservedMask r == 0 && r != .tpresc
  | .clrb _ _ => true
  | .ptog => cap
  | .pset => cap
  | .pclr => cap
  | .rd _ => false
  | .prd => false
  | .giew _ => false
  | .gier => false

/-- A step of a call between the ends of its critical section. -/
def bodyOpOk (p : Params) (cap : Bool) : CallOp → Bool
  | .cmd i => bodyCommandOk p cap i
  | .setBudget _ => true
  | .readActive => true
  | .save => false
  | .restore => false

/-- Steps of the body and then `CS_EXIT`: what is left of a call inside its critical section. -/
def insideSection (p : Params) (cap : Bool) : List CallOp → Bool
  | [] => false
  | op :: rest => (op == .restore && rest.isEmpty) || (bodyOpOk p cap op && insideSection p cap rest)

/-- A call in progress: it holds its `s`, and either its `GIEW 0` is next, or it is inside its critical section and
`gie = 0` (R220). -/
def callOk (s : State) (c : Call) : Bool :=
  !s.held.isEmpty &&
    match c.ops with
    | .cmd (.giew false) :: rest => insideSection s.params s.capTaken rest
    | ops => insideSection s.params s.capTaken ops && !s.gie

/-- The invariant: the instance is well formed (R12); `CS` names no divider above `N_DIV` (R35); `phase` is below the
divider while the timer runs (R41); `mpos` is a position of the script (R30); no value is left with Mainline's command
(R31); a call in progress is an item of the script and keeps its critical section (R220). -/
structure StateInv (s : State) : Prop where
  instanceOk : s.params.wf = true
  selectOk : s.cs.toNat ≤ s.params.nDiv
  phaseOk : s.cs ≠ 0 → s.phase < divider s.params s.cs
  positionOk : s.mpos ≤ s.script.length
  answerTaken : s.answer = none
  callInScript : ∀ c, s.call = some c → s.mpos < s.script.length ∧ callOk s c = true

/-! ## Runs -/

/-- The first `m` steps of a run: `σ k` is the agent that steps from `ρ k` to `ρ (k + 1)` (R16). -/
def RunTo (ρ : Nat → State) (σ : Nat → Agent) (m : Nat) : Prop :=
  ∀ k, k < m → enabled (σ k) (ρ k) = true ∧ agentStep (σ k) (ρ k) = .next (ρ (k + 1))

/-- An infinite run. -/
def Run (ρ : Nat → State) (σ : Nat → Agent) : Prop := ∀ m, RunTo ρ σ m

/-- Weak fairness of the Timer: infinitely many Timer steps (R160). -/
def TimerFair (σ : Nat → Agent) : Prop := ∀ n, ∃ m, n ≤ m ∧ σ m = .timer

/-- Weak fairness of the Interrupt: a request that stays from some point on is served (R261). -/
def InterruptFair (ρ : Nat → State) (σ : Nat → Agent) : Prop :=
  ∀ n, (∀ m, n ≤ m → irqRequest (ρ m) = true) → ∃ m, n ≤ m ∧ σ m = .interrupt

/-- A Mainline step that leaves the timer, the interrupt's controls and the driver alone. -/
def leavesTimer (s t : State) : Prop :=
  t.params = s.params ∧ t.wgm = s.wgm ∧ t.cs = s.cs ∧ t.ocr = s.ocr ∧ t.ocie = s.ocie ∧ t.flag = s.flag
    ∧ t.cnt = s.cnt ∧ t.phase = s.phase ∧ t.gie = s.gie ∧ t.budget = s.budget ∧ t.capTaken = s.capTaken

/-- A Mainline step that leaves these and the pin alone. -/
def leavesTone (s t : State) : Prop := leavesTimer s t ∧ t.pin = s.pin

/-- How many of a run's first `m` steps are handler steps that toggle (R203, R204). -/
def toggles (ρ : Nat → State) (σ : Nat → Agent) (m : Nat) : Nat :=
  (List.range m).countP fun k => σ k == .interrupt && isActive (ρ k).budget

/-- How many of a run's first `m` steps are terminal handler steps (R205). -/
def terminals (ρ : Nat → State) (σ : Nat → Agent) (m : Nat) : Nat :=
  (List.range m).countP fun k => σ k == .interrupt && !isActive (ρ k).budget

/-- `n` Timer steps in a row (R160). -/
def timerRun : Nat → State → Outcome
  | 0, s => .next s
  | n + 1, s =>
    match timerStep s with
    | .next t => timerRun n t
    | .fault r => .fault r
    | .refused r => .refused r

/-- The Timer step taken here signals a compare match (R162, R163). -/
def matchIsDue (s : State) : Prop :=
  s.wgm = ctcMode ∧ s.cs ≠ 0 ∧ s.phase + 1 = divider s.params s.cs ∧ s.cnt = s.ocr

/-- Mainline's next step is this command of the call in progress. -/
def callCommandNext (s : State) (i : Instr) : Prop := s.call.bind (·.ops.head?) = some (.cmd i)

/-- How many timer ticks the next compare match is away, counting its own (R168). -/
def ticksToMatch (s : State) : Nat :=
  if s.cnt.toNat ≤ s.ocr.toNat then s.ocr.toNat - s.cnt.toNat + 1 else 256 - s.cnt.toNat + s.ocr.toNat + 1

/-! ## The end of a run (R311) -/

/-- A run is complete here: the script is done, nothing has stopped it, and no Interrupt step can ever be enabled again
without a Mainline step. -/
def complete (s : State) : Prop :=
  s.mpos = s.script.length ∧ s.call = none ∧ s.fault = none ∧ s.refused = none
    ∧ (s.ocie = false ∨ s.gie = false ∨ (s.cs = 0 ∧ s.flag = false))

/-- What is observed of a complete run's last state. -/
structure Observation where
  tmode : Byte
  tpresc : Byte
  tcmp : Byte
  timsk : Byte
  gie : Bool
  pin : Bool
  budget : Budget
  capTaken : Bool
  results : List Result
  deriving DecidableEq, Repr

/-- The observation of R311. It never holds `flag`, also where the timer is stopped (DESIGN CHOICE, log entry 25).
In a run that never took `PINIT` its `pin` is the reset level the model chose (DESIGN CHOICE, log entry 3). -/
def observe (s : State) : Observation where
  tmode := regRead .tmode s
  tpresc := regRead .tpresc s
  tcmp := regRead .tcmp s
  timsk := regRead .timsk s
  gie := s.gie
  pin := s.pin
  budget := s.budget
  capTaken := s.capTaken
  results := s.results

end Sys2Proof.Machine
end

