-- ==== Sys2Proof/Certificates/Slice0/Obligations.lean ====
section
/-! DEFINITION. The statements about the tone timer block, for the provers. Each docstring names the rules of spec/ that
its statement formalises or rests on. -/

open Sys2Proof Sys2Proof.Machine

/-! ## Encoding (spec/30_encoding.md) -/

/-- R81, R84, R85: decoding the word of a command gives the command back, with every operand. -/
def Obligations.DecodeOfEncodeIsTheCommand : Prop :=
  ∀ i : Instr, decode (encode i) = .ok i

/-- R80, R84, R90: a word that decodes is the word of the command it decodes to; no bit of it is dropped. -/
def Obligations.EncodeOfDecodeIsTheWord : Prop :=
  ∀ (w : CmdWord) (i : Instr), decode w = .ok i → encode i = w

/-- R87: exactly the words with operation 0x0 or 0xB..0xF, or with a nonzero must-be-zero field, are illegal, and executing
one raises `IllegalCommand(w)` and changes nothing else. -/
def Obligations.IllegalWordsFaultAndChangeNothing : Prop :=
  ∀ w : CmdWord,
    (decode w = .error (.illegalCommand w) ↔ illegalWord w)
      ∧ (illegalWord w → ∀ s : State, s.fault = none →
          commandStep w s = .next { s with fault := some (.illegalCommand w) })

/-- R88: exactly the `WR`, `RD`, `SETB` and `CLRB` words with register number 2 or 6..15 raise `ReservedRegister(w)`,
and executing one changes nothing else. -/
def Obligations.ReservedRegisterWordsFault : Prop :=
  ∀ w : CmdWord,
    (decode w = .error (.reservedRegister w) ↔ reservedRegisterWord w)
      ∧ (reservedRegisterWord w → ∀ s : State, s.fault = none →
          commandStep w s = .next { s with fault := some (.reservedRegister w) })

/-- R84: no word belongs to two rows of the match and mask table; a word belongs to some row exactly when it is not
illegal; and a word that decodes to a command belongs to that command's row. -/
def Obligations.OpcodeTableIsTheDecoder : Prop :=
  (∀ (w : CmdWord) (a b : OpRow), a ∈ opTable → b ∈ opTable → a.accepts w = true → b.accepts w = true → a = b)
    ∧ (∀ w : CmdWord, (∃ r, r ∈ opTable ∧ r.accepts w = true) ↔ ¬ illegalWord w)
    ∧ ∀ (w : CmdWord) (i : Instr), decode w = .ok i → ∃ r, r ∈ opTable ∧ r.op = opOf i ∧ r.accepts w = true

/-- R85 and spec/95_test_vectors.md 2.3: words written out from the encoding decode to the commands they stand for. -/
def Obligations.WordsOfTheEncodingTableDecode : Prop :=
  decode 0x1002 = .ok (.wr .tmode 0x02) ∧ decode 0x138D = .ok (.wr .tcmp 141) ∧ decode 0x1104 = .ok (.wr .tpresc 4)
    ∧ decode 0x2100 = .ok (.rd .tpresc) ∧ decode 0x3402 = .ok (.setb .timsk 0x02)
    ∧ decode 0x4402 = .ok (.clrb .timsk 0x02) ∧ decode 0x1502 = .ok (.wr .tifr 0x02)
    ∧ decode 0x5000 = .ok .ptog ∧ decode 0x6000 = .ok .pset ∧ decode 0x7000 = .ok .pclr ∧ decode 0x8000 = .ok .prd
    ∧ decode 0x9000 = .ok (.giew false) ∧ decode 0x9001 = .ok (.giew true) ∧ decode 0xA000 = .ok .gier

/-! ## The step (spec/00_scope.md R16, spec/60_exceptions.md) -/

/-- R16, R30, R31, R253: on Mainline's turn with a command word next, the step uses the turn (log entry 5) and is `exec` of
the decoded command, after which Mainline takes the value handed over into its results (log entry 9) and `mpos` advances,
unless the command recorded a fault or refusal. -/
def Obligations.StepRunsTheDecodedCommand : Prop :=
  ∀ (s t : State) (w : CmdWord) (i : Instr) (rest : List Agent),
    s.fault = none → s.refused = none → s.params.wf = true → s.call = none → s.schedule = .mainline :: rest →
    s.script[s.mpos]? = some (.command w) → decode w = .ok i →
    exec i { s with schedule := rest } = .next t →
    step s = .next (if marked t then t else
      { t with mpos := t.mpos + 1, results := t.results ++ (t.answer.map .value).toList, answer := none })

/-- R86, R250, R253: on Mainline's turn with a word the decoder rejects, the step uses the turn (log entry 5), records the
fault and changes nothing else; `mpos` does not advance. -/
def Obligations.StepOfARejectedWordRecordsTheFault : Prop :=
  ∀ (s : State) (w : CmdWord) (e : Reject) (rest : List Agent),
    s.fault = none → s.refused = none → s.params.wf = true → s.call = none → s.schedule = .mainline :: rest →
    s.script[s.mpos]? = some (.command w) → decode w = .error e →
    step s = .next { s with schedule := rest, fault := some (faultOfReject e) }

/-- R250, R251, R291: once a fault or a refusal is recorded no agent has a step, and the machine stays stopped. That the next
step answers the stop is log entry 7, and that a fault is answered where both are recorded is log entry 18. -/
def Obligations.StoppedMachineHasNoStep : Prop :=
  ∀ s : State,
    (∀ r, s.fault = some r → step s = .fault r ∧ ∀ a, enabled a s = false)
      ∧ ∀ r, s.fault = none → s.refused = some r → step s = .refused r ∧ ∀ a, enabled a s = false

/-- R16, R266: every step of a well-formed instance uses a turn and is one enabled agent's step. That turns are data is log
entry 5, and that a turn no agent can use is the Timer's is log entry 6. -/
def Obligations.EveryStepIsOneAgentsStep : Prop :=
  ∀ s t : State, s.params.wf = true → step s = .next t →
    ∃ a, enabled a s = true ∧ agentStep a (turnTaken s) = .next t

/-- R266: when several agents are enabled, any one of them may go first: the turn given to it makes the step its own
(turns held as data are log entry 5). -/
def Obligations.AnyEnabledAgentMayGoFirst : Prop :=
  ∀ (s : State) (a : Agent), s.params.wf = true → enabled a s = true →
    step { s with schedule := a :: s.schedule } = agentStep a s

/-- R44, R160, R261: the Interrupt is enabled exactly when `flag ∧ OCIE ∧ gie` holds and nothing has stopped the run; the
Timer is enabled whenever nothing has. -/
def Obligations.EnablingConditions : Prop :=
  ∀ s : State,
    (enabled .interrupt s = true ↔
        s.flag = true ∧ s.ocie = true ∧ s.gie = true ∧ s.fault = none ∧ s.refused = none)
      ∧ (enabled .timer s = true ↔ s.fault = none ∧ s.refused = none)

/-- R12, R255: an instance outside R12 is refused with `BadParameters` at its first step, which changes nothing else (that
the refusal is the first step is log entry 15). -/
def Obligations.BadInstanceIsRefused : Prop :=
  ∀ s : State, s.params.wf = false → s.fault = none → s.refused = none →
    step s = .next { s with refused := some .badParameters }

/-! ## The register commands (spec/41_timer_controller.md) -/

/-- R131, reached through `WR`: for each register, when the write faults and which fault it records, and what it writes
otherwise. A free draw stands for `phase` where `CS` changes to a nonzero value (log entry 4). -/
def Obligations.WrFollowsRegWrite : Prop :=
  ∀ (r : Reg) (v : Byte) (s : State), s.fault = none →
    let w : CmdWord := BitVec.ofNat 16 (0x1000 + (numberOfReg r).toNat * 0x100 + v.toNat)
    let reservedBit : State := { s with fault := some (.reservedBit w) }
    exec (.wr r v) s = .next (match r with
      | .tmode => if 4 ≤ v.toNat then reservedBit else { s with wgm := BitVec.ofNat 2 v.toNat }
      | .tpresc =>
        let k : BitVec 3 := BitVec.ofNat 3 v.toNat
        if 8 ≤ v.toNat then reservedBit
        else if s.params.nDiv < v.toNat then { s with fault := some (.reservedPrescaler w) }
        else if k ≠ 0 ∧ k ≠ s.cs then
          { s with cs := k, phase := drawBelow s.draws (divider s.params k), draws := s.draws + 1 }
        else { s with cs := k }
      | .tcmp => { s with ocr := v }
      | .timsk => if v.toNat ≠ 0 ∧ v.toNat ≠ 2 then reservedBit else { s with ocie := decide (v.toNat = 2) }
      | .tifr =>
        if v.toNat ≠ 0 ∧ v.toNat ≠ 2 then reservedBit
        else { s with flag := if v.toNat = 2 then false else s.flag })

/-- R130, R133: `RD` returns the byte each register holds, with reserved bits 0, and changes nothing of the block. -/
def Obligations.RdReturnsTheRegister : Prop :=
  ∀ (r : Reg) (s : State),
    exec (.rd r) s = .next { s with answer := some (match r with
      | .tmode => BitVec.ofNat 8 s.wgm.toNat
      | .tpresc => BitVec.ofNat 8 s.cs.toNat
      | .tcmp => s.ocr
      | .timsk => if s.ocie then 2 else 0
      | .tifr => if s.flag then 2 else 0) }

/-- R134: `SETB` writes back the OR of the register with the mask; on `TIFR` that clears the flag whatever the mask; it
faults for a mask with a reserved bit and for a `CS` above `N_DIV`. -/
def Obligations.SetbWritesBackTheOr : Prop :=
  ∀ (r : Reg) (m : Byte) (s : State), s.fault = none →
    let w : CmdWord := BitVec.ofNat 16 (0x3000 + (numberOfReg r).toNat * 0x100 + m.toNat)
    let reservedBit : State := { s with fault := some (.reservedBit w) }
    exec (.setb r m) s = .next (match r with
      | .tmode => if 4 ≤ m.toNat then reservedBit else { s with wgm := s.wgm ||| BitVec.ofNat 2 m.toNat }
      | .tpresc =>
        let k : BitVec 3 := s.cs ||| BitVec.ofNat 3 m.toNat
        if 8 ≤ m.toNat then reservedBit
        else if s.params.nDiv < k.toNat then { s with fault := some (.reservedPrescaler w) }
        else if k ≠ 0 ∧ k ≠ s.cs then
          { s with cs := k, phase := drawBelow s.draws (divider s.params k), draws := s.draws + 1 }
        else { s with cs := k }
      | .tcmp => { s with ocr := s.ocr ||| m }
      | .timsk =>
        if m.toNat ≠ 0 ∧ m.toNat ≠ 2 then reservedBit else { s with ocie := s.ocie || decide (m.toNat = 2) }
      | .tifr => if m.toNat ≠ 0 ∧ m.toNat ≠ 2 then reservedBit else { s with flag := false })

/-- R135, R307: `CLRB` writes back the AND of the register with the complement of the mask, for every mask; it never
faults on its data. On `TIFR` it clears the flag unless the mask has bit 1. -/
def Obligations.ClrbWritesBackTheAndNot : Prop :=
  ∀ (r : Reg) (m : Byte) (s : State), s.cs.toNat ≤ s.params.nDiv →
    exec (.clrb r m) s = .next (match r with
      | .tmode => { s with wgm := s.wgm &&& ~~~ (BitVec.ofNat 2 m.toNat) }
      | .tpresc =>
        let k : BitVec 3 := s.cs &&& ~~~ (BitVec.ofNat 3 m.toNat)
        if k ≠ 0 ∧ k ≠ s.cs then
          { s with cs := k, phase := drawBelow s.draws (divider s.params k), draws := s.draws + 1 }
        else { s with cs := k }
      | .tcmp => { s with ocr := s.ocr &&& ~~~ m }
      | .timsk => { s with ocie := s.ocie && !m.getLsbD 1 }
      | .tifr => { s with flag := s.flag && m.getLsbD 1 })

/-- R35, R41, R161: on a well-formed instance a select `1 ≤ CS ≤ N_DIV` names the divider `DIVIDERS[CS-1]`, which is
positive, and every phase drawn for it is below it. -/
def Obligations.DrawnPhaseIsBelowTheDivider : Prop :=
  ∀ (p : Params) (k : BitVec 3) (n : Nat), p.wf = true → k ≠ 0 → k.toNat ≤ p.nDiv →
    p.dividers[k.toNat - 1]? = some (divider p k) ∧ drawBelow n (divider p k) < divider p k

/-- R32, R131: the registers are each independently writable: a `WR`, `SETB` or `CLRB` to one leaves what every other
reads. -/
def Obligations.RegistersAreIndependentlyWritable : Prop :=
  ∀ (r r' : Reg) (v : Byte) (s t : State), r ≠ r' →
    (exec (.wr r v) s = .next t ∨ exec (.setb r v) s = .next t ∨ exec (.clrb r v) s = .next t) →
    regRead r' t = regRead r' s

/-- R140: `GIEW b` writes `gie`, and nothing else changes. -/
def Obligations.GiewWritesTheGlobalEnable : Prop :=
  ∀ (b : Bool) (s : State), exec (.giew b) s = .next { s with gie := b }

/-- R141: `GIER` returns `zext_8(gie)` and changes nothing of the block. -/
def Obligations.GierReturnsTheGlobalEnable : Prop :=
  ∀ s : State, exec .gier s = .next { s with answer := some (if s.gie then 1 else 0) }

/-- R39, R61: a bus read or write at `TIMER_BASE + REG` is the register's; at a reserved number, 2 or 6..15, both raise
`ReservedRegister` (with the word on whose behalf the access is made: log entry 16); outside the window neither reaches
anything (log entry 17). -/
def Obligations.RegistersStandAtTheirAddresses : Prop :=
  ∀ (w : CmdWord) (v : Byte) (s : State),
    (∀ r : Reg,
        memRead w (s.params.timerBase + (numberOfReg r).toNat) s = some (.ok (regRead r s))
          ∧ memWrite w (s.params.timerBase + (numberOfReg r).toNat) v s = some (regWrite w r v s))
      ∧ (∀ n : Nat, n = 2 ∨ (6 ≤ n ∧ n ≤ 15) →
          memRead w (s.params.timerBase + n) s = some (.error (.fault (.reservedRegister w)))
            ∧ memWrite w (s.params.timerBase + n) v s = some (.error (.fault (.reservedRegister w))))
      ∧ ∀ a : Nat, a < s.params.timerBase ∨ s.params.timerBase + 16 ≤ a →
          memRead w a s = none ∧ memWrite w a v s = none

/-! ## The pin commands (spec/43_gpio.md) -/

/-- R180, R181, R182, R184: with the capability, `PTOG`, `PSET` and `PCLR` give the pin its level and change nothing
else. -/
def Obligations.PinCommandsDriveThePin : Prop :=
  ∀ s : State, s.capTaken = true →
    exec .ptog s = .next { s with pin := !s.pin } ∧ exec .pset s = .next { s with pin := true }
      ∧ exec .pclr s = .next { s with pin := false }

/-- R183: after `PINIT`, `PRD` returns the level the block drives and changes nothing of the block. -/
def Obligations.PrdReturnsTheDrivenLevel : Prop :=
  ∀ s : State, s.capTaken = true → exec .prd s = .next { s with answer := some (if s.pin then 1 else 0) }

/-- R183, R185: before `PINIT` the pin commands are refused, and nothing else changes. -/
def Obligations.PinCommandsBeforePinitAreRefused : Prop :=
  ∀ s : State, s.capTaken = false → s.refused = none →
    exec .ptog s = .next { s with refused := some .noCapability }
      ∧ exec .pset s = .next { s with refused := some .noCapability }
      ∧ exec .pclr s = .next { s with refused := some .noCapability }
      ∧ exec .prd s = .next { s with refused := some .pinUnspecified }

/-! ## All commands -/

/-- R67: repeating a `WR`, `SETB`, `CLRB`, `PSET`, `PCLR` or `GIEW` leaves the same state as issuing it once (so a
repeated select does not redraw `phase`), and two `PTOG` leave the pin as it was. -/
def Obligations.RepeatedCommandsAreIdempotent : Prop :=
  (∀ (i : Instr) (s t : State), opOf i ∈ [Op.wr, Op.setb, Op.clrb, Op.pset, Op.pclr, Op.giew] →
      exec i s = .next t → exec i t = .next t)
    ∧ ∀ s t u : State, s.capTaken = true → exec .ptog s = .next t → exec .ptog t = .next u → u = s

/-- R40, R46, R47, R60, R75: no command changes `cnt`, the budget, the capability, the parameters, Mainline's script,
position, call, held values or results, or the schedule. -/
def Obligations.CommandsLeaveTheHiddenState : Prop :=
  ∀ (i : Instr) (s t : State), exec i s = .next t →
    t = { s with
      wgm := t.wgm, cs := t.cs, ocr := t.ocr, ocie := t.ocie, flag := t.flag, phase := t.phase, gie := t.gie,
      pin := t.pin, answer := t.answer, draws := t.draws, fault := t.fault, refused := t.refused }

/-! ## The timer (spec/42_timer_counter.md) -/

/-- R160, R162: a Timer step does nothing while `CS = 0`; otherwise a prescaler step short of the divider only counts. -/
def Obligations.PrescalerCountsSystemClocks : Prop :=
  ∀ s : State,
    (s.cs = 0 → timerStep s = .next s)
      ∧ (s.cs ≠ 0 → s.phase + 1 ≠ divider s.params s.cs → timerStep s = .next { s with phase := s.phase + 1 })

/-- R163, R164: the Timer step that ends a prescaler period is a timer tick: outside CTC it faults with
`UnmodelledMode`; at `cnt = OCR` it clears the counter and the compare match sets the flag if `OCIE` or
`LATCH_WHILE_MASKED`; otherwise the counter goes up by one, mod 256. -/
def Obligations.TimerTickCountsAndMatches : Prop :=
  ∀ s : State, s.cs ≠ 0 → s.phase + 1 = divider s.params s.cs →
    timerStep s = .next (
      if s.wgm ≠ 0b10 then { s with fault := some (match s.fault with | none => .unmodelledMode s.wgm | some r => r) }
      else if s.cnt = s.ocr then
        { s with phase := 0, cnt := 0, flag := if s.ocie || s.params.latchWhileMasked then true else s.flag }
      else { s with phase := 0, cnt := BitVec.ofNat 8 ((s.cnt.toNat + 1) % 256) })

/-- R165: from a counter just cleared by a compare match, the next one comes after exactly `(OCR + 1) · d` system clock
cycles; until then the counter holds each value for one tick. -/
def Obligations.CompareMatchIntervalIsExact : Prop :=
  ∀ s : State, s.params.wf = true → s.wgm = 0b10 → s.cs ≠ 0 → s.cs.toNat ≤ s.params.nDiv → s.cnt = 0 → s.phase = 0 →
    let d := divider s.params s.cs
    (∀ n, n < (s.ocr.toNat + 1) * d →
        timerRun n s = .next { s with cnt := BitVec.ofNat 8 (n / d), phase := n % d })
      ∧ timerRun ((s.ocr.toNat + 1) * d) s
          = .next { s with flag := s.flag || (s.ocie || s.params.latchWhileMasked) }

/-- R162, R168, R304: from any counter and prescaler position, the next compare match comes `OCR - cnt + 1` ticks later if
`cnt ≤ OCR`, and `(256 - cnt) + OCR + 1` ticks later otherwise, the first tick after `d - phase` cycles; until then only
`cnt` and `phase` change. -/
def Obligations.FirstCompareMatchAfterReprogramming : Prop :=
  ∀ s : State, s.params.wf = true → s.wgm = 0b10 → s.cs ≠ 0 → s.cs.toNat ≤ s.params.nDiv →
    s.phase < divider s.params s.cs →
    let cycles := ticksToMatch s * divider s.params s.cs - s.phase
    (∀ n, n < cycles → ∃ (c : Byte) (f : Nat), timerRun n s = .next { s with cnt := c, phase := f })
      ∧ timerRun cycles s
          = .next { s with cnt := 0, phase := 0, flag := s.flag || (s.ocie || s.params.latchWhileMasked) }

/-! ## The interrupt (spec/44_toggle_handler.md, spec/60_exceptions.md) -/

/-- R203, R204, R262: while the budget is ACTIVE an Interrupt step clears the flag, inverts the pin, takes one from a
finite budget, and leaves `gie` set; nothing else changes. -/
def Obligations.HandlerTogglesWhileActive : Prop :=
  ∀ s : State, s.capTaken = true → irqRequest s = true →
    (s.budget = .indefinite → interruptStep s = .next { s with flag := false, pin := !s.pin })
      ∧ ∀ n, s.budget = .finite (n + 1) →
          interruptStep s = .next { s with flag := false, pin := !s.pin, budget := .finite n }

/-- R205, R262: with the budget at zero an Interrupt step clears the flag, masks the interrupt and forces the pin low;
nothing else changes. -/
def Obligations.HandlerTerminalBranchMasksAndForcesLow : Prop :=
  ∀ s : State, s.capTaken = true → irqRequest s = true → s.budget = .finite 0 →
    interruptStep s = .next { s with flag := false, ocie := false, pin := false }

/-- R207, R251: an Interrupt step without the capability is refused with `NoCapability`, and nothing else changes. -/
def Obligations.HandlerWithoutCapabilityIsRefused : Prop :=
  ∀ s : State, s.capTaken = false → s.refused = none →
    interruptStep s = .next { s with refused := some .noCapability }

/-- R206: once `OCIE = 0`, no Interrupt step occurs and `OCIE` stays 0 as long as Mainline does not step. -/
def Obligations.MaskedToneStaysDone : Prop :=
  ∀ (ρ : Nat → State) (σ : Nat → Agent) (m : Nat), RunTo ρ σ m → (∀ k, k < m → σ k ≠ .mainline) →
    (ρ 0).ocie = false → (∀ k, k < m → σ k ≠ .interrupt) ∧ (ρ m).ocie = false

/-- R204, R205, R209: along a run in which Mainline leaves the tone alone, from a finite budget `n`: as long as no
terminal handler step has run, the budget is `n` less the toggles so far, and the pin is its first level inverted once
per toggle; there are never more than `n` toggles. -/
def Obligations.ToggleBudgetIsConserved : Prop :=
  ∀ (ρ : Nat → State) (σ : Nat → Agent) (m n : Nat), RunTo ρ σ m →
    (∀ k, k < m → σ k = .mainline → leavesTone (ρ k) (ρ (k + 1))) →
    (ρ m).fault = none → (ρ m).refused = none → (ρ 0).budget = .finite n →
    toggles ρ σ m ≤ n ∧ (ρ m).budget = .finite (n - toggles ρ σ m)
      ∧ (terminals ρ σ m = 0 → (ρ m).pin = ((ρ 0).pin ^^ decide (toggles ρ σ m % 2 = 1)))

/-- R208: in every weakly fair run from an armed, unmasked and enabled finite tone whose timer, interrupt controls and budget
Mainline leaves alone, there are exactly `n` toggling handler steps and then one terminal one, after which no handler step
follows and the interrupt stays masked and the budget zero; and the pin is low for good if Mainline leaves it alone too
(a pin command of Mainline's, which R208's premise allows, may raise it). -/
def Obligations.FairFiniteToneEndsAfterItsBudget : Prop :=
  ∀ (ρ : Nat → State) (σ : Nat → Agent) (n : Nat), Run ρ σ → TimerFair σ → InterruptFair ρ σ →
    (∀ k, σ k = .mainline → leavesTimer (ρ k) (ρ (k + 1))) →
    (ρ 0).params.wf = true → (ρ 0).wgm = 0b10 → (ρ 0).cs ≠ 0 → (ρ 0).phase < divider (ρ 0).params (ρ 0).cs →
    (ρ 0).ocie = true → (ρ 0).gie = true → (ρ 0).capTaken = true → (ρ 0).budget = .finite n →
    ∃ N, ∀ m, N ≤ m →
      toggles ρ σ m = n ∧ terminals ρ σ m = 1 ∧ σ m ≠ .interrupt ∧ (ρ m).ocie = false ∧ (ρ m).budget = .finite 0
        ∧ ((∀ k, σ k = .mainline → (ρ (k + 1)).pin = (ρ k).pin) → (ρ m).pin = false)

/-! ## The encoder (spec/40_frequency_encoder.md) -/

/-- R112, R256: frequency 0 is the error `ZeroFrequency`, and `2f > C` is refused with `EncoderUnderflow`. -/
def Obligations.EncoderRejectsZeroAndUnderflow : Prop :=
  ∀ nDiv f c : Nat,
    computeTimerProgram nDiv 0 c = .err .zeroFrequency
      ∧ (1 ≤ f → c < 2 * f → computeTimerProgram nDiv f c = .refused .encoderUnderflow)

/-- R114: with `q = C / (2f) ≥ 1`, the encoder answers `(i, q / 2^i - 1)` for the least index `i` with
`q / 2^i ≤ 256`, and `FrequencyTooLow` exactly when `q ≥ 257 · 2^(N_DIV-1)`. -/
def Obligations.EncoderClosedForm : Prop :=
  ∀ nDiv f c : Nat, 1 ≤ nDiv → 1 ≤ f → 1 ≤ c / (2 * f) →
    let q := c / (2 * f)
    (∀ i, i < nDiv → q / 2 ^ i ≤ 256 → (∀ j, j < i → 256 < q / 2 ^ j) →
        computeTimerProgram nDiv f c = .ok ⟨i, q / 2 ^ i - 1⟩)
      ∧ (computeTimerProgram nDiv f c = .err .frequencyTooLow ↔ 257 * 2 ^ (nDiv - 1) ≤ q)

/-- R110, R115, R117: a program the encoder answers has an index below `N_DIV` and a compare value at most 255, at least
127 above index 0; and no earlier index yields a value at most 255. -/
def Obligations.EncoderProgramIsMinimalAndInRange : Prop :=
  ∀ (nDiv f c : Nat) (p : TimerProgram), 1 ≤ nDiv → computeTimerProgram nDiv f c = .ok p →
    p.prescalerIndex < nDiv ∧ p.compareValue ≤ 255 ∧ (1 ≤ p.prescalerIndex → 127 ≤ p.compareValue)
      ∧ ∀ j, j < p.prescalerIndex → 255 < c / (2 * f) / 2 ^ j - 1

/-- R116: where every divider is twice the one before it, from 1, the half-period `(cv + 1) · DIVIDERS[i]` lies in
`(q - 2^i, q]`. -/
def Obligations.HalfPeriodReconstructionForDoublingDividers : Prop :=
  ∀ (p : Params) (f : Nat) (a : TimerProgram),
    (∀ i, i < p.nDiv → p.dividers[i]? = some (2 ^ i)) → 1 ≤ p.nDiv →
    computeTimerProgram p.nDiv f p.clockHz = .ok a →
    let q := p.clockHz / (2 * f)
    let halfPeriod := (a.compareValue + 1) * p.dividers.getD a.prescalerIndex 0
    halfPeriod ≤ q ∧ q < halfPeriod + 2 ^ a.prescalerIndex

/-- R118: the toggle budget is `2·f·d / 1000`, truncated, and indefinite for an indefinite duration. -/
def Obligations.ToggleBudgetFormula : Prop :=
  ∀ f d : Nat,
    computeToggleBudget f (.finite d) = .finite ((2 * f * d) / 1000)
      ∧ computeToggleBudget f .indefinite = .indefinite

/-! ## The tone API and the boot step (spec/45_tone_api.md, spec/70_reset_and_hazards.md) -/

/-- R222, R225: when the encoder answers an error, `start_tone` returns it in one step (log entry 11), with no command
issued and nothing of the block changed, whatever the duration and the capability. That the error is returned before `PINIT`
too, in R222's order of the checks and against R294's last sentence, is log entry 24. -/
def Obligations.StartToneErrorChangesNothing : Prop :=
  ∀ (s : State) (f : Nat) (dur : Duration) (e : ApiError),
    s.call = none → s.script[s.mpos]? = some (.startTone f dur) →
    computeTimerProgram s.params.nDiv f s.params.clockHz = .err e →
    mainlineStep s = .next { s with mpos := s.mpos + 1, results := s.results ++ [.startError e] }

/-- R222, R251: the refusals of `start_tone`, in its order, each in one step (log entry 11) with nothing else changed. That
the encoder's refusal and `ZeroDuration` come before `NoCapability`, so also in a call before `PINIT`, is R222's order of the
checks against R294's last sentence: log entry 24. -/
def Obligations.StartToneRefusalsInOrder : Prop :=
  ∀ (s : State) (f : Nat) (dur : Duration),
    s.call = none → s.refused = none → s.script[s.mpos]? = some (.startTone f dur) →
    let encoded := computeTimerProgram s.params.nDiv f s.params.clockHz
    (∀ r, encoded = .refused r → mainlineStep s = .next { s with refused := some r })
      ∧ ∀ p, encoded = .ok p →
          (dur = .finite 0 → mainlineStep s = .next { s with refused := some .zeroDuration })
            ∧ (dur ≠ .finite 0 → s.capTaken = false →
                mainlineStep s = .next { s with refused := some .noCapability })
            ∧ ∀ b n, dur ≠ .finite 0 → s.capTaken = true → computeToggleBudget f dur = .finite n →
                s.params.budgetMax = some b → b < n →
                mainlineStep s = .next { s with refused := some .budgetTooLarge }

/-- R220, R222, R223, R224: eleven Mainline steps in a row (log entries 5, 11) run `start_tone` to its return, where the
encoder answers a program, the duration is not 0, the capability is held and the toggle budget is within `BUDGET_MAX`:
the timer is in CTC with the program's compare value and prescaler, `phase` is a free draw where `CS` changed (log entry
4), the budget is the toggle budget of the call, the flag clear, the interrupt unmasked, the pin low, and `gie` as it was. -/
def Obligations.StartToneArmsTheTone : Prop :=
  ∀ (s : State) (f : Nat) (dur : Duration) (p : TimerProgram) (rest : List Agent),
    s.params.wf = true → s.fault = none → s.refused = none → s.call = none → s.answer = none →
    s.script[s.mpos]? = some (.startTone f dur) →
    computeTimerProgram s.params.nDiv f s.params.clockHz = .ok p → dur ≠ .finite 0 → s.capTaken = true →
    (∀ n m, computeToggleBudget f dur = .finite n → s.params.budgetMax = some m → n ≤ m) →
    s.schedule = List.replicate 11 .mainline ++ rest →
    ∃ k : BitVec 3, k.toNat = p.prescalerIndex + 1 ∧
      ∃ cv : Byte, cv.toNat = p.compareValue ∧
        Host.Core.run Sys2Proof.core 11 s = .next { selectPrescaler k s with
          wgm := 0b10, ocr := cv, ocie := true, flag := false, pin := false, budget := computeToggleBudget f dur,
          mpos := s.mpos + 1, results := s.results ++ [.started], schedule := rest }

/-- R222, R223, R224, R229: where the encoder answers a program, the duration is not 0, the capability is held and the
toggle budget is within `BUDGET_MAX`, and whatever Timer and Interrupt steps fall between its own, when `start_tone` returns
`Ok` the timer holds the encoder's program, the budget is the toggle budget of the call, the interrupt is unmasked, the pin
is low and `gie` is as before the call; and the results gained are its `Ok` alone. From its `WR TIFR` step on, which leaves
the flag clear, the timer holds the program and no Interrupt step runs before the return, and the flag is set at the return
only if a Timer step after that step found a compare match due: no match from before it is delivered. That the checks are
no step of their own is log entry 11. -/
def Obligations.StartTonePostconditionsUnderAnyInterleaving : Prop :=
  ∀ (ρ : Nat → State) (σ : Nat → Agent) (m : Nat) (f : Nat) (dur : Duration) (p : TimerProgram),
    RunTo ρ σ (m + 1) → StateInv (ρ 0) → (ρ 0).call = none → (ρ 0).script[(ρ 0).mpos]? = some (.startTone f dur) →
    computeTimerProgram (ρ 0).params.nDiv f (ρ 0).params.clockHz = .ok p → dur ≠ .finite 0 → (ρ 0).capTaken = true →
    (∀ n b, computeToggleBudget f dur = .finite n → (ρ 0).params.budgetMax = some b → n ≤ b) → σ 0 = .mainline →
    (∀ k, k ≤ m → (ρ k).mpos = (ρ 0).mpos) → (ρ (m + 1)).mpos = (ρ 0).mpos + 1 →
    (ρ (m + 1)).wgm = 0b10 ∧ (ρ (m + 1)).ocr.toNat = p.compareValue ∧ (ρ (m + 1)).cs.toNat = p.prescalerIndex + 1
      ∧ (ρ (m + 1)).budget = computeToggleBudget f dur ∧ (ρ (m + 1)).ocie = true ∧ (ρ (m + 1)).pin = false
      ∧ (ρ (m + 1)).gie = (ρ 0).gie ∧ (ρ (m + 1)).call = none ∧ (ρ (m + 1)).held = (ρ 0).held
      ∧ (ρ (m + 1)).results = (ρ 0).results ++ [.started]
      ∧ ∃ n, n ≤ m ∧ σ n = .mainline ∧ callCommandNext (ρ n) (.wr .tifr 0x02) ∧ (ρ (n + 1)).flag = false
        ∧ (∀ k, n < k → k ≤ m → (ρ k).wgm = 0b10 ∧ (ρ k).ocr.toNat = p.compareValue
            ∧ (ρ k).cs.toNat = p.prescalerIndex + 1 ∧ σ k ≠ .interrupt)
        ∧ ((ρ (m + 1)).flag = true → ∃ k, n < k ∧ k ≤ m ∧ σ k = .timer ∧ matchIsDue (ρ k))

/-- R220, R226, R227: six Mainline steps in a row run `stop_tone`: the interrupt is masked, the pin low, the budget zero,
and nothing else of the block changes; where that already held, it is a no-op on the block. -/
def Obligations.StopToneSilencesTheTone : Prop :=
  ∀ (s : State) (rest : List Agent),
    s.params.wf = true → s.fault = none → s.refused = none → s.call = none → s.answer = none →
    s.capTaken = true → s.script[s.mpos]? = some .stopTone → s.schedule = List.replicate 6 .mainline ++ rest →
    Host.Core.run Sys2Proof.core 6 s = .next { s with
      ocie := false, pin := false, budget := .finite 0,
      mpos := s.mpos + 1, results := s.results ++ [.stopped], schedule := rest }

/-- R201, R228, R294: with the capability, or on an instance that does not gate the call, four Mainline steps in a row (log
entries 5, 11) run `is_active`: it returns whether the budget is ACTIVE and changes nothing of the block. Before `PINIT` on
an instance that gates it, its first step is refused, and nothing else changes. That R228 and R294 differ on the call before
`PINIT`, and that an instance says which holds, is log entry 24. -/
def Obligations.IsActiveReportsTheBudget : Prop :=
  ∀ s : State, s.refused = none → s.call = none → s.script[s.mpos]? = some .isActive →
    (∀ rest : List Agent, s.capTaken = true ∨ s.params.gateIsActive = false →
        s.params.wf = true → s.fault = none → s.answer = none → s.schedule = List.replicate 4 .mainline ++ rest →
        Host.Core.run Sys2Proof.core 4 s = .next { s with
          mpos := s.mpos + 1, schedule := rest,
          results := s.results ++ [.active (match s.budget with | .indefinite => true | .finite n => decide (0 < n))] })
      ∧ (s.capTaken = false → s.params.gateIsActive = true →
        mainlineStep s = .next { s with refused := some .noCapability })

/-- R293: `PINIT` drives the pin low and takes the capability, once; a second one is refused. -/
def Obligations.PinitTakesTheCapabilityOnce : Prop :=
  ∀ s : State, s.call = none → s.script[s.mpos]? = some .pinit →
    (s.capTaken = false → mainlineStep s = .next { s with pin := false, capTaken := true, mpos := s.mpos + 1 })
      ∧ (s.capTaken = true → s.refused = none → mainlineStep s = .next { s with refused := some .capabilityTwice })

/-- R45, R185, R226, R251: `stop_tone` before `PINIT` is refused, and nothing else changes. -/
def Obligations.StopToneBeforePinitIsRefused : Prop :=
  ∀ s : State, s.call = none → s.capTaken = false → s.refused = none → s.script[s.mpos]? = some .stopTone →
    mainlineStep s = .next { s with refused := some .noCapability }

/-- R97, R220, R221: `CS_ENTER`'s first item saves `gie` and `CS_EXIT` writes the saved value back, each one Mainline step
(with none saved, a free value: log entry 10; neither adds a result: log entry 23); and in every run a `CS_EXIT` gives `gie`
the value that its own `CS_ENTER` saved, whatever agents' steps, calls and nested critical sections lie between. -/
def Obligations.ScriptCriticalSectionsRestoreGie : Prop :=
  (∀ s : State, s.fault = none → s.refused = none → s.call = none →
      (s.script[s.mpos]? = some .saveGie →
          mainlineStep s = .next { s with answer := none, held := s.gie :: s.held, mpos := s.mpos + 1 })
        ∧ (s.script[s.mpos]? = some .restoreGie →
            (∀ b rest, s.held = b :: rest →
                mainlineStep s = .next { s with gie := b, held := rest, mpos := s.mpos + 1 })
              ∧ (s.held = [] →
                ∃ b, mainlineStep s = .next { s with gie := b, draws := s.draws + 1, mpos := s.mpos + 1 })))
    ∧ ∀ (ρ : Nat → State) (σ : Nat → Agent) (m : Nat), RunTo ρ σ (m + 1) →
        (ρ 0).call = none → (ρ 0).script[(ρ 0).mpos]? = some .saveGie → σ 0 = .mainline →
        (ρ m).call = none → (ρ m).script[(ρ m).mpos]? = some .restoreGie → σ m = .mainline →
        (ρ 0).mpos < (ρ m).mpos →
        sectionDepth 0 (((ρ 0).script.take (ρ m).mpos).drop ((ρ 0).mpos + 1)) = some 0 →
        (ρ (m + 1)).gie = (ρ 0).gie ∧ (ρ (m + 1)).held = (ρ 0).held

/-! ## The whole machine -/

/-- R12, R30, R35, R41, R220: every step keeps the invariant: the instance is well formed, `CS` is at most `N_DIV`, `phase`
is below the divider while the timer runs, `mpos` is a position of the script, no value is left with Mainline's command,
and a call in progress stands at an item of the script, holds its `s` and has `gie = 0` inside its critical section. -/
def Obligations.EveryStepKeepsTheInvariant : Prop :=
  ∀ s t : State, StateInv s → step s = .next t → StateInv t

/-- R51, R290: every well-formed instance's reset state, loaded with any script and schedule, meets the invariant. -/
def Obligations.ResetMeetsTheInvariant : Prop :=
  ∀ (p : Params) (script : List Item) (schedule : List Agent), p.wf = true →
    StateInv { State.resetOf p with script := script, schedule := schedule }

/-- R51: after reset every register reads 0, `flag`, `cnt` and `gie` are 0, the budget is `Finite 0`, the capability is not
taken, nothing has stopped the run and `mpos` is 0, for every instance; nothing is said of `phase` and the pin. -/
def Obligations.ResetValues : Prop :=
  ∀ p : Params,
    let s := State.resetOf p
    regRead .tmode s = 0 ∧ regRead .tpresc s = 0 ∧ regRead .tcmp s = 0 ∧ regRead .timsk s = 0 ∧ regRead .tifr s = 0
      ∧ s.flag = false ∧ s.cnt = 0 ∧ s.gie = false ∧ s.budget = .finite 0 ∧ s.capTaken = false
      ∧ s.fault = none ∧ s.refused = none ∧ s.mpos = 0

/-- R71, R220, R305: inside a call's critical section no Interrupt step is enabled. -/
def Obligations.CriticalSectionExcludesTheHandler : Prop :=
  ∀ (s : State) (c : Call), StateInv s → s.call = some c → c.ops.head? ≠ some (.cmd (.giew false)) →
    enabled .interrupt s = false

/-- R223, R226, R228: Mainline's own step of a call in progress records no fault and no refusal. -/
def Obligations.CallsInProgressNeverStop : Prop :=
  ∀ s : State, StateInv s → s.call.isSome = true →
    ∃ t, mainlineStep s = .next t ∧ t.fault = s.fault ∧ t.refused = s.refused

/-- R46, R60, R75, R200: the budget changes only in the handler, by one down, and in a call's own budget step. -/
def Obligations.BudgetChangesOnlyInHandlerAndCalls : Prop :=
  ∀ (a : Agent) (s t : State), agentStep a s = .next t → t.budget ≠ s.budget →
    (a = .interrupt ∧ ∃ n, s.budget = .finite (n + 1) ∧ t.budget = .finite n)
      ∨ (a = .mainline ∧ ∃ c, s.call = some c ∧ c.ops.head? = some (.setBudget t.budget))

/-- R11, R73, R185, R250, R291: no agent's step changes the parameters or the script, gives the capability back, or clears a
recorded fault or refusal; `mpos` moves only forward, by at most one. -/
def Obligations.NothingIsUndone : Prop :=
  ∀ (a : Agent) (s t : State), agentStep a s = .next t →
    t.params = s.params ∧ t.script = s.script ∧ (s.capTaken = true → t.capTaken = true)
      ∧ (s.fault.isSome = true → t.fault = s.fault) ∧ (s.refused.isSome = true → t.refused = s.refused)
      ∧ (t.mpos = s.mpos ∨ t.mpos = s.mpos + 1)

/-- R40, R45, R164: only Timer steps change `cnt`, and they change nothing else but `phase`, `flag` and the fault mark; so
never the pin, `gie`, `OCIE` or the budget. -/
def Obligations.OnlyTheTimerCounts : Prop :=
  ∀ (a : Agent) (s t : State), agentStep a s = .next t →
    (a ≠ .timer → t.cnt = s.cnt)
      ∧ (a = .timer → t = { s with cnt := t.cnt, phase := t.phase, flag := t.flag, fault := t.fault })

/-- R311: a complete run stays complete, and its observation stays, under every further step; only `cnt`, `phase` and
`flag` go on changing. The premise that a running timer is in CTC is the model's own (log entry 14), and so is that
the observation leaves out a stopped timer's flag (log entry 25). -/
def Obligations.CompleteRunKeepsItsObservation : Prop :=
  ∀ s t : State, s.params.wf = true → complete s → (s.cs = 0 ∨ s.wgm = 0b10) → step s = .next t →
    complete t ∧ observe t = observe s
      ∧ t = { s with
          cnt := t.cnt, phase := t.phase, flag := t.flag, schedule := t.schedule, draws := t.draws }
end

