-- ==== Sys2Proof/Laws/Decode.lean ====
section
/-! SUPPORT. The fields of a command word: what packing and taking apart do to each other, and the fields as numbers
(spec/30_encoding.md R81). -/

namespace Sys2Proof

@[simp] theorem opField_packWord (op reg : BitVec 4) (imm : Byte) : opField (packWord op reg imm) = op := by
  unfold opField packWord
  ext i hi
  simp only [BitVec.getElem_extractLsb', BitVec.getLsbD_append]
  rw [if_neg (by omega)]
  simp [show 12 + i - (4 + 8) = i by omega, hi]

@[simp] theorem regField_packWord (op reg : BitVec 4) (imm : Byte) : regField (packWord op reg imm) = reg := by
  unfold regField packWord
  ext i hi
  simp only [BitVec.getElem_extractLsb', BitVec.getLsbD_append]
  rw [if_pos (by omega), if_neg (by omega)]
  simp [show 8 + i - 8 = i by omega, hi]

@[simp] theorem immField_packWord (op reg : BitVec 4) (imm : Byte) : immField (packWord op reg imm) = imm := by
  unfold immField packWord
  ext i hi
  simp only [BitVec.getElem_extractLsb', BitVec.getLsbD_append]
  rw [if_pos (by omega), if_pos (by omega)]
  simp [hi]

/-- A word is its fields packed. -/
theorem packWord_fields (w : CmdWord) : packWord (opField w) (regField w) (immField w) = w := by
  unfold packWord opField regField immField
  ext i hi
  simp only [BitVec.getElem_append, BitVec.getElem_extractLsb']
  split
  · split
    · simp_all
    · simp [show 8 + (i - 8) = i by omega, hi]
  · simp [show 12 + (i - (4 + 8)) = i by omega, hi]

theorem opField_toNat (w : CmdWord) : (opField w).toNat = w.toNat / 0x1000 := by
  unfold opField
  simp [BitVec.extractLsb'_toNat, Nat.shiftRight_eq_div_pow]
  have := w.isLt
  omega

theorem regField_toNat (w : CmdWord) : (regField w).toNat = w.toNat / 0x100 % 0x10 := by
  unfold regField
  simp [BitVec.extractLsb'_toNat, Nat.shiftRight_eq_div_pow]

theorem immField_toNat (w : CmdWord) : (immField w).toNat = w.toNat % 0x100 := by
  unfold immField
  simp [BitVec.extractLsb'_toNat]

theorem operandBits_toNat (w : CmdWord) : (operandBits w).toNat = w.toNat % 0x1000 := by
  unfold operandBits
  simp [BitVec.extractLsb'_toNat]

theorem giewZeroBits_toNat (w : CmdWord) : (giewZeroBits w).toNat = w.toNat % 0x1000 / 2 := by
  unfold giewZeroBits
  simp [BitVec.extractLsb'_toNat, Nat.shiftRight_eq_div_pow]
  omega

@[simp] theorem regOfNumber_numberOfReg (r : Reg) : regOfNumber (numberOfReg r) = some r := by
  cases r <;> decide

/-- A register number names a register only as that register's number. -/
theorem numberOfReg_of_regOfNumber {n : BitVec 4} {r : Reg} (h : regOfNumber n = some r) : numberOfReg r = n := by
  revert n r; decide

theorem opField_and (a b : CmdWord) : opField (a &&& b) = opField a &&& opField b := by
  unfold opField
  ext i hi
  simp

end Sys2Proof
end

