-- ==== Sys2Proof/Laws/State.lean ====
section
/-! SUPPORT. One lemma per field per named update of the state, true by rfl, so that no later proof unfolds a record
update. -/

namespace Sys2Proof.Machine

@[simp] theorem raiseFault_params (r : Fault) (s : State) : (raiseFault r s).params = s.params := rfl
@[simp] theorem raiseFault_wgm (r : Fault) (s : State) : (raiseFault r s).wgm = s.wgm := rfl
@[simp] theorem raiseFault_cs (r : Fault) (s : State) : (raiseFault r s).cs = s.cs := rfl
@[simp] theorem raiseFault_ocr (r : Fault) (s : State) : (raiseFault r s).ocr = s.ocr := rfl
@[simp] theorem raiseFault_ocie (r : Fault) (s : State) : (raiseFault r s).ocie = s.ocie := rfl
@[simp] theorem raiseFault_flag (r : Fault) (s : State) : (raiseFault r s).flag = s.flag := rfl
@[simp] theorem raiseFault_cnt (r : Fault) (s : State) : (raiseFault r s).cnt = s.cnt := rfl
@[simp] theorem raiseFault_phase (r : Fault) (s : State) : (raiseFault r s).phase = s.phase := rfl
@[simp] theorem raiseFault_gie (r : Fault) (s : State) : (raiseFault r s).gie = s.gie := rfl
@[simp] theorem raiseFault_pin (r : Fault) (s : State) : (raiseFault r s).pin = s.pin := rfl
@[simp] theorem raiseFault_budget (r : Fault) (s : State) : (raiseFault r s).budget = s.budget := rfl
@[simp] theorem raiseFault_capTaken (r : Fault) (s : State) : (raiseFault r s).capTaken = s.capTaken := rfl
@[simp] theorem raiseFault_fault (r : Fault) (s : State) : (raiseFault r s).fault = match s.fault with | none => some r | some old => some old := rfl
@[simp] theorem raiseFault_refused (r : Fault) (s : State) : (raiseFault r s).refused = s.refused := rfl
@[simp] theorem raiseFault_script (r : Fault) (s : State) : (raiseFault r s).script = s.script := rfl
@[simp] theorem raiseFault_mpos (r : Fault) (s : State) : (raiseFault r s).mpos = s.mpos := rfl
@[simp] theorem raiseFault_call (r : Fault) (s : State) : (raiseFault r s).call = s.call := rfl
@[simp] theorem raiseFault_held (r : Fault) (s : State) : (raiseFault r s).held = s.held := rfl
@[simp] theorem raiseFault_results (r : Fault) (s : State) : (raiseFault r s).results = s.results := rfl
@[simp] theorem raiseFault_answer (r : Fault) (s : State) : (raiseFault r s).answer = s.answer := rfl
@[simp] theorem raiseFault_schedule (r : Fault) (s : State) : (raiseFault r s).schedule = s.schedule := rfl
@[simp] theorem raiseFault_draws (r : Fault) (s : State) : (raiseFault r s).draws = s.draws := rfl

@[simp] theorem refuse_params (r : Refusal) (s : State) : (refuse r s).params = s.params := rfl
@[simp] theorem refuse_wgm (r : Refusal) (s : State) : (refuse r s).wgm = s.wgm := rfl
@[simp] theorem refuse_cs (r : Refusal) (s : State) : (refuse r s).cs = s.cs := rfl
@[simp] theorem refuse_ocr (r : Refusal) (s : State) : (refuse r s).ocr = s.ocr := rfl
@[simp] theorem refuse_ocie (r : Refusal) (s : State) : (refuse r s).ocie = s.ocie := rfl
@[simp] theorem refuse_flag (r : Refusal) (s : State) : (refuse r s).flag = s.flag := rfl
@[simp] theorem refuse_cnt (r : Refusal) (s : State) : (refuse r s).cnt = s.cnt := rfl
@[simp] theorem refuse_phase (r : Refusal) (s : State) : (refuse r s).phase = s.phase := rfl
@[simp] theorem refuse_gie (r : Refusal) (s : State) : (refuse r s).gie = s.gie := rfl
@[simp] theorem refuse_pin (r : Refusal) (s : State) : (refuse r s).pin = s.pin := rfl
@[simp] theorem refuse_budget (r : Refusal) (s : State) : (refuse r s).budget = s.budget := rfl
@[simp] theorem refuse_capTaken (r : Refusal) (s : State) : (refuse r s).capTaken = s.capTaken := rfl
@[simp] theorem refuse_fault (r : Refusal) (s : State) : (refuse r s).fault = s.fault := rfl
@[simp] theorem refuse_refused (r : Refusal) (s : State) : (refuse r s).refused = match s.refused with | none => some r | some old => some old := rfl
@[simp] theorem refuse_script (r : Refusal) (s : State) : (refuse r s).script = s.script := rfl
@[simp] theorem refuse_mpos (r : Refusal) (s : State) : (refuse r s).mpos = s.mpos := rfl
@[simp] theorem refuse_call (r : Refusal) (s : State) : (refuse r s).call = s.call := rfl
@[simp] theorem refuse_held (r : Refusal) (s : State) : (refuse r s).held = s.held := rfl
@[simp] theorem refuse_results (r : Refusal) (s : State) : (refuse r s).results = s.results := rfl
@[simp] theorem refuse_answer (r : Refusal) (s : State) : (refuse r s).answer = s.answer := rfl
@[simp] theorem refuse_schedule (r : Refusal) (s : State) : (refuse r s).schedule = s.schedule := rfl
@[simp] theorem refuse_draws (r : Refusal) (s : State) : (refuse r s).draws = s.draws := rfl

@[simp] theorem handOver_params (v : Byte) (s : State) : (handOver v s).params = s.params := rfl
@[simp] theorem handOver_wgm (v : Byte) (s : State) : (handOver v s).wgm = s.wgm := rfl
@[simp] theorem handOver_cs (v : Byte) (s : State) : (handOver v s).cs = s.cs := rfl
@[simp] theorem handOver_ocr (v : Byte) (s : State) : (handOver v s).ocr = s.ocr := rfl
@[simp] theorem handOver_ocie (v : Byte) (s : State) : (handOver v s).ocie = s.ocie := rfl
@[simp] theorem handOver_flag (v : Byte) (s : State) : (handOver v s).flag = s.flag := rfl
@[simp] theorem handOver_cnt (v : Byte) (s : State) : (handOver v s).cnt = s.cnt := rfl
@[simp] theorem handOver_phase (v : Byte) (s : State) : (handOver v s).phase = s.phase := rfl
@[simp] theorem handOver_gie (v : Byte) (s : State) : (handOver v s).gie = s.gie := rfl
@[simp] theorem handOver_pin (v : Byte) (s : State) : (handOver v s).pin = s.pin := rfl
@[simp] theorem handOver_budget (v : Byte) (s : State) : (handOver v s).budget = s.budget := rfl
@[simp] theorem handOver_capTaken (v : Byte) (s : State) : (handOver v s).capTaken = s.capTaken := rfl
@[simp] theorem handOver_fault (v : Byte) (s : State) : (handOver v s).fault = s.fault := rfl
@[simp] theorem handOver_refused (v : Byte) (s : State) : (handOver v s).refused = s.refused := rfl
@[simp] theorem handOver_script (v : Byte) (s : State) : (handOver v s).script = s.script := rfl
@[simp] theorem handOver_mpos (v : Byte) (s : State) : (handOver v s).mpos = s.mpos := rfl
@[simp] theorem handOver_call (v : Byte) (s : State) : (handOver v s).call = s.call := rfl
@[simp] theorem handOver_held (v : Byte) (s : State) : (handOver v s).held = s.held := rfl
@[simp] theorem handOver_results (v : Byte) (s : State) : (handOver v s).results = s.results := rfl
@[simp] theorem handOver_answer (v : Byte) (s : State) : (handOver v s).answer = some v := rfl
@[simp] theorem handOver_schedule (v : Byte) (s : State) : (handOver v s).schedule = s.schedule := rfl
@[simp] theorem handOver_draws (v : Byte) (s : State) : (handOver v s).draws = s.draws := rfl

@[simp] theorem interruptEntry_params (s : State) : (interruptEntry s).params = s.params := rfl
@[simp] theorem interruptEntry_wgm (s : State) : (interruptEntry s).wgm = s.wgm := rfl
@[simp] theorem interruptEntry_cs (s : State) : (interruptEntry s).cs = s.cs := rfl
@[simp] theorem interruptEntry_ocr (s : State) : (interruptEntry s).ocr = s.ocr := rfl
@[simp] theorem interruptEntry_ocie (s : State) : (interruptEntry s).ocie = s.ocie := rfl
@[simp] theorem interruptEntry_flag (s : State) : (interruptEntry s).flag = false := rfl
@[simp] theorem interruptEntry_cnt (s : State) : (interruptEntry s).cnt = s.cnt := rfl
@[simp] theorem interruptEntry_phase (s : State) : (interruptEntry s).phase = s.phase := rfl
@[simp] theorem interruptEntry_gie (s : State) : (interruptEntry s).gie = false := rfl
@[simp] theorem interruptEntry_pin (s : State) : (interruptEntry s).pin = s.pin := rfl
@[simp] theorem interruptEntry_budget (s : State) : (interruptEntry s).budget = s.budget := rfl
@[simp] theorem interruptEntry_capTaken (s : State) : (interruptEntry s).capTaken = s.capTaken := rfl
@[simp] theorem interruptEntry_fault (s : State) : (interruptEntry s).fault = s.fault := rfl
@[simp] theorem interruptEntry_refused (s : State) : (interruptEntry s).refused = s.refused := rfl
@[simp] theorem interruptEntry_script (s : State) : (interruptEntry s).script = s.script := rfl
@[simp] theorem interruptEntry_mpos (s : State) : (interruptEntry s).mpos = s.mpos := rfl
@[simp] theorem interruptEntry_call (s : State) : (interruptEntry s).call = s.call := rfl
@[simp] theorem interruptEntry_held (s : State) : (interruptEntry s).held = s.held := rfl
@[simp] theorem interruptEntry_results (s : State) : (interruptEntry s).results = s.results := rfl
@[simp] theorem interruptEntry_answer (s : State) : (interruptEntry s).answer = s.answer := rfl
@[simp] theorem interruptEntry_schedule (s : State) : (interruptEntry s).schedule = s.schedule := rfl
@[simp] theorem interruptEntry_draws (s : State) : (interruptEntry s).draws = s.draws := rfl

@[simp] theorem interruptExit_params (s : State) : (interruptExit s).params = s.params := rfl
@[simp] theorem interruptExit_wgm (s : State) : (interruptExit s).wgm = s.wgm := rfl
@[simp] theorem interruptExit_cs (s : State) : (interruptExit s).cs = s.cs := rfl
@[simp] theorem interruptExit_ocr (s : State) : (interruptExit s).ocr = s.ocr := rfl
@[simp] theorem interruptExit_ocie (s : State) : (interruptExit s).ocie = s.ocie := rfl
@[simp] theorem interruptExit_flag (s : State) : (interruptExit s).flag = s.flag := rfl
@[simp] theorem interruptExit_cnt (s : State) : (interruptExit s).cnt = s.cnt := rfl
@[simp] theorem interruptExit_phase (s : State) : (interruptExit s).phase = s.phase := rfl
@[simp] theorem interruptExit_gie (s : State) : (interruptExit s).gie = true := rfl
@[simp] theorem interruptExit_pin (s : State) : (interruptExit s).pin = s.pin := rfl
@[simp] theorem interruptExit_budget (s : State) : (interruptExit s).budget = s.budget := rfl
@[simp] theorem interruptExit_capTaken (s : State) : (interruptExit s).capTaken = s.capTaken := rfl
@[simp] theorem interruptExit_fault (s : State) : (interruptExit s).fault = s.fault := rfl
@[simp] theorem interruptExit_refused (s : State) : (interruptExit s).refused = s.refused := rfl
@[simp] theorem interruptExit_script (s : State) : (interruptExit s).script = s.script := rfl
@[simp] theorem interruptExit_mpos (s : State) : (interruptExit s).mpos = s.mpos := rfl
@[simp] theorem interruptExit_call (s : State) : (interruptExit s).call = s.call := rfl
@[simp] theorem interruptExit_held (s : State) : (interruptExit s).held = s.held := rfl
@[simp] theorem interruptExit_results (s : State) : (interruptExit s).results = s.results := rfl
@[simp] theorem interruptExit_answer (s : State) : (interruptExit s).answer = s.answer := rfl
@[simp] theorem interruptExit_schedule (s : State) : (interruptExit s).schedule = s.schedule := rfl
@[simp] theorem interruptExit_draws (s : State) : (interruptExit s).draws = s.draws := rfl

@[simp] theorem itemDone_params (r : Option Result) (s : State) : (itemDone r s).params = s.params := rfl
@[simp] theorem itemDone_wgm (r : Option Result) (s : State) : (itemDone r s).wgm = s.wgm := rfl
@[simp] theorem itemDone_cs (r : Option Result) (s : State) : (itemDone r s).cs = s.cs := rfl
@[simp] theorem itemDone_ocr (r : Option Result) (s : State) : (itemDone r s).ocr = s.ocr := rfl
@[simp] theorem itemDone_ocie (r : Option Result) (s : State) : (itemDone r s).ocie = s.ocie := rfl
@[simp] theorem itemDone_flag (r : Option Result) (s : State) : (itemDone r s).flag = s.flag := rfl
@[simp] theorem itemDone_cnt (r : Option Result) (s : State) : (itemDone r s).cnt = s.cnt := rfl
@[simp] theorem itemDone_phase (r : Option Result) (s : State) : (itemDone r s).phase = s.phase := rfl
@[simp] theorem itemDone_gie (r : Option Result) (s : State) : (itemDone r s).gie = s.gie := rfl
@[simp] theorem itemDone_pin (r : Option Result) (s : State) : (itemDone r s).pin = s.pin := rfl
@[simp] theorem itemDone_budget (r : Option Result) (s : State) : (itemDone r s).budget = s.budget := rfl
@[simp] theorem itemDone_capTaken (r : Option Result) (s : State) : (itemDone r s).capTaken = s.capTaken := rfl
@[simp] theorem itemDone_fault (r : Option Result) (s : State) : (itemDone r s).fault = s.fault := rfl
@[simp] theorem itemDone_refused (r : Option Result) (s : State) : (itemDone r s).refused = s.refused := rfl
@[simp] theorem itemDone_script (r : Option Result) (s : State) : (itemDone r s).script = s.script := rfl
@[simp] theorem itemDone_mpos (r : Option Result) (s : State) : (itemDone r s).mpos = s.mpos + 1 := rfl
@[simp] theorem itemDone_call (r : Option Result) (s : State) : (itemDone r s).call = s.call := rfl
@[simp] theorem itemDone_held (r : Option Result) (s : State) : (itemDone r s).held = s.held := rfl
@[simp] theorem itemDone_results (r : Option Result) (s : State) : (itemDone r s).results = s.results ++ r.toList := rfl
@[simp] theorem itemDone_answer (r : Option Result) (s : State) : (itemDone r s).answer = s.answer := rfl
@[simp] theorem itemDone_schedule (r : Option Result) (s : State) : (itemDone r s).schedule = s.schedule := rfl
@[simp] theorem itemDone_draws (r : Option Result) (s : State) : (itemDone r s).draws = s.draws := rfl

@[simp] theorem commandDone_params (s : State) : (commandDone s).params = s.params := rfl
@[simp] theorem commandDone_wgm (s : State) : (commandDone s).wgm = s.wgm := rfl
@[simp] theorem commandDone_cs (s : State) : (commandDone s).cs = s.cs := rfl
@[simp] theorem commandDone_ocr (s : State) : (commandDone s).ocr = s.ocr := rfl
@[simp] theorem commandDone_ocie (s : State) : (commandDone s).ocie = s.ocie := rfl
@[simp] theorem commandDone_flag (s : State) : (commandDone s).flag = s.flag := rfl
@[simp] theorem commandDone_cnt (s : State) : (commandDone s).cnt = s.cnt := rfl
@[simp] theorem commandDone_phase (s : State) : (commandDone s).phase = s.phase := rfl
@[simp] theorem commandDone_gie (s : State) : (commandDone s).gie = s.gie := rfl
@[simp] theorem commandDone_pin (s : State) : (commandDone s).pin = s.pin := rfl
@[simp] theorem commandDone_budget (s : State) : (commandDone s).budget = s.budget := rfl
@[simp] theorem commandDone_capTaken (s : State) : (commandDone s).capTaken = s.capTaken := rfl
@[simp] theorem commandDone_fault (s : State) : (commandDone s).fault = s.fault := rfl
@[simp] theorem commandDone_refused (s : State) : (commandDone s).refused = s.refused := rfl
@[simp] theorem commandDone_script (s : State) : (commandDone s).script = s.script := rfl
@[simp] theorem commandDone_mpos (s : State) : (commandDone s).mpos = s.mpos + 1 := rfl
@[simp] theorem commandDone_call (s : State) : (commandDone s).call = s.call := rfl
@[simp] theorem commandDone_held (s : State) : (commandDone s).held = s.held := rfl
@[simp] theorem commandDone_results (s : State) : (commandDone s).results = s.results ++ (s.answer.map Result.value).toList := rfl
@[simp] theorem commandDone_answer (s : State) : (commandDone s).answer = none := rfl
@[simp] theorem commandDone_schedule (s : State) : (commandDone s).schedule = s.schedule := rfl
@[simp] theorem commandDone_draws (s : State) : (commandDone s).draws = s.draws := rfl

end Sys2Proof.Machine
end

