-- ==== Sys2Proof/Laws/Ops.lean ====
section
/-! SUPPORT. What each shared operation can do, said once: the outcomes of settling an effect, the ways a register write,
a pin command and a prescaler select can end, and that every command and every agent's step answers a next state. -/

namespace Sys2Proof.Machine

@[simp] theorem settle_ok (s t : State) : settle s (.ok t) = .next t := rfl

@[simp] theorem settle_error (s : State) (x : Stop) : settle s (.error x) = .next (recordStop x s) := rfl

@[simp] theorem recordStop_fault (r : Fault) (s : State) : recordStop (.fault r) s = raiseFault r s := rfl

@[simp] theorem recordStop_refusal (r : Refusal) (s : State) : recordStop (.refusal r) s = refuse r s := rfl

@[simp] theorem andThen_ok (t : State) (f : State → Effect) : Effect.andThen (.ok t) f = f t := rfl

@[simp] theorem andThen_error (x : Stop) (f : State → Effect) : Effect.andThen (.error x) f = .error x := rfl

/-- Settling answers a next state: the effect's, or the first state with the mark. -/
theorem settle_next_iff (s t : State) (e : Effect) :
    settle s e = .next t ↔ e = .ok t ∨ ∃ x, e = .error x ∧ t = recordStop x s := by
  cases e with
  | ok u => simp
  | error x => simp [eq_comm]

theorem settle_answers (s : State) (e : Effect) : ∃ t, settle s e = .next t := by
  cases e <;> exact ⟨_, rfl⟩

/-- A recorded stop is all that a stopped step changes. -/
theorem recordStop_frame (x : Stop) (s : State) :
    recordStop x s = { s with fault := (recordStop x s).fault, refused := (recordStop x s).refused } := by
  cases x <;> rfl

theorem recordStop_marked (x : Stop) (s : State) : marked (recordStop x s) = true := by
  cases x with
  | fault r => cases h : s.fault <;> simp [marked, h]
  | refusal r => cases h : s.refused <;> simp [marked, h]

/-- The ways a register write can end. -/
theorem regWrite_cases (w : CmdWord) (r : Reg) (v : Byte) (s : State) :
    (v &&& reservedMask r ≠ 0 ∧ regWrite w r v s = .error (.fault (.reservedBit w)))
      ∨ (v &&& reservedMask r = 0 ∧
          ((r = .tmode ∧ regWrite w r v s = .ok { s with wgm := v.extractLsb' 0 2 })
            ∨ (r = .tpresc ∧ s.params.nDiv < (v.extractLsb' 0 3).toNat
                ∧ regWrite w r v s = .error (.fault (.reservedPrescaler w)))
            ∨ (r = .tpresc ∧ (v.extractLsb' 0 3).toNat ≤ s.params.nDiv
                ∧ regWrite w r v s = .ok (selectPrescaler (v.extractLsb' 0 3) s))
            ∨ (r = .tcmp ∧ regWrite w r v s = .ok { s with ocr := v })
            ∨ (r = .timsk ∧ regWrite w r v s = .ok { s with ocie := v.getLsbD 1 })
            ∨ (r = .tifr ∧ regWrite w r v s = .ok { s with flag := flagAfterTifrWrite v s.flag }))) := by
  by_cases h : v &&& reservedMask r = 0
  · refine .inr ⟨h, ?_⟩
    have hw : ¬ v &&& reservedMask r ≠ 0 := not_not.mpr h
    cases r
    case tpresc =>
      by_cases hk : s.params.nDiv < (v.extractLsb' 0 3).toNat
      · exact .inr (.inl ⟨rfl, hk, by unfold regWrite; rw [if_neg hw]; exact if_pos hk⟩)
      · exact .inr (.inr (.inl ⟨rfl, Nat.le_of_not_lt hk, by unfold regWrite; rw [if_neg hw]; exact if_neg hk⟩))
    case tmode => exact .inl ⟨rfl, by unfold regWrite; rw [if_neg hw]⟩
    case tcmp => exact .inr (.inr (.inr (.inl ⟨rfl, by unfold regWrite; rw [if_neg hw]⟩)))
    case timsk => exact .inr (.inr (.inr (.inr (.inl ⟨rfl, by unfold regWrite; rw [if_neg hw]⟩))))
    case tifr => exact .inr (.inr (.inr (.inr (.inr ⟨rfl, by unfold regWrite; rw [if_neg hw]⟩))))
  · exact .inl ⟨h, by unfold regWrite; rw [if_pos h]⟩

/-- A prescaler select changes `CS`, and with it at most `phase` and the count of draws. -/
theorem selectPrescaler_frame (k : BitVec 3) (s : State) :
    selectPrescaler k s
      = { s with cs := k, phase := (selectPrescaler k s).phase, draws := (selectPrescaler k s).draws } := by
  unfold selectPrescaler; split <;> rfl

theorem selectPrescaler_same (s : State) : selectPrescaler s.cs s = s := by
  simp [selectPrescaler]

@[simp] theorem selectPrescaler_cs (k : BitVec 3) (s : State) : (selectPrescaler k s).cs = k := by
  unfold selectPrescaler; split <;> rfl

@[simp] theorem selectPrescaler_params (k : BitVec 3) (s : State) : (selectPrescaler k s).params = s.params := by
  unfold selectPrescaler; split <;> rfl

/-- The ways a pin command can end. -/
theorem pinEffect_cases (level : Bool) (s : State) :
    (s.capTaken = true ∧ pinEffect level s = .ok { s with pin := level })
      ∨ (s.capTaken = false ∧ pinEffect level s = .error (.refusal .noCapability)) := by
  cases h : s.capTaken <;> simp [pinEffect, h]

theorem drawBelow_lt (n : Nat) {d : Nat} (h : 0 < d) : drawBelow n d < d := Nat.mod_lt _ h

/-- Every command answers a next state. -/
theorem exec_answers (i : Instr) (s : State) : ∃ t, exec i s = .next t := by
  cases i
  case prd =>
    simp only [exec, execPrd]
    split <;> exact ⟨_, rfl⟩
  all_goals first
    | exact settle_answers s _
    | exact ⟨_, rfl⟩

theorem thenUnmarked_next (t : State) (k : State → Outcome) :
    thenUnmarked (.next t) k = if marked t then .next t else k t := rfl

/-- What an outcome gone on from can come to: the marked state it stopped in, or what follows its unmarked state. -/
theorem thenUnmarked_cases {o : Outcome} {k : State → Outcome} {t : State} (h : thenUnmarked o k = .next t) :
    (o = .next t ∧ marked t = true) ∨ ∃ u, o = .next u ∧ marked u = false ∧ k u = .next t := by
  cases o with
  | fault r => cases h
  | refused r => cases h
  | next u =>
    rw [thenUnmarked_next] at h
    cases hm : marked u with
    | true => rw [hm] at h; cases h; exact .inl ⟨rfl, hm⟩
    | false => rw [hm] at h; exact .inr ⟨u, rfl, hm, h⟩

/-- The agent that steps is enabled, as long as nothing has stopped the run. -/
theorem stepperOf_enabled {s : State} (h : marked s = false) : enabled (stepperOf s) s = true := by
  unfold stepperOf
  split
  · assumption
  · simp [enabled, h]

/-- Taking a turn changes no agent's enabling condition. -/
@[simp] theorem enabled_turnTaken (a : Agent) (s : State) : enabled a (turnTaken s) = enabled a s := by
  unfold turnTaken
  split <;> rfl

/-- Going on from an outcome that answers gives an answer, if what follows does. -/
theorem thenUnmarked_answers {o : Outcome} {k : State → Outcome} (ho : ∃ t, o = .next t)
    (hk : ∀ t, ∃ u, k t = .next u) : ∃ u, thenUnmarked o k = .next u := by
  obtain ⟨t, rfl⟩ := ho
  rw [thenUnmarked_next]
  split
  · exact ⟨t, rfl⟩
  · exact hk t

/-- A budget is accepted exactly when it is indefinite, `BUDGET_MAX` is unbounded, or it is within it (R222). -/
theorem budgetTooLarge_eq_false_iff (p : Params) (b : Budget) :
    budgetTooLarge p b = false ↔ ∀ n m, b = .finite n → p.budgetMax = some m → n ≤ m := by
  cases b with
  | indefinite => simp [budgetTooLarge]
  | finite n => cases h : p.budgetMax <;> simp [budgetTooLarge, h]

/-- The checks of `start_tone` pass exactly when each of R222's four does, with the encoder's program and the toggle budget
of the call. -/
theorem startToneChecks_eq_ok_iff (f : Nat) (dur : Duration) (s : State) (p : TimerProgram) (b : Budget) :
    startToneChecks f dur s = .ok (p, b) ↔
      computeTimerProgram s.params.nDiv f s.params.clockHz = .ok p ∧ dur ≠ .finite 0 ∧ s.capTaken = true
        ∧ budgetTooLarge s.params (computeToggleBudget f dur) = false ∧ computeToggleBudget f dur = b := by
  unfold startToneChecks
  cases computeTimerProgram s.params.nDiv f s.params.clockHz with
  | err e => simp
  | refused r => simp
  | ok q =>
    by_cases hd : dur = .finite 0
    · simp [hd]
    · cases s.capTaken <;> cases budgetTooLarge s.params (computeToggleBudget f dur) <;> simp [hd]

theorem callOpStep_answers (op : CallOp) (s : State) : ∃ t, callOpStep op s = .next t := by
  cases op with
  | save =>
    unfold callOpStep saveGie
    exact thenUnmarked_answers (exec_answers _ _) fun t => ⟨_, rfl⟩
  | cmd i => exact exec_answers i s
  | setBudget b => exact ⟨_, rfl⟩
  | readActive => exact ⟨_, rfl⟩
  | restore =>
    simp only [callOpStep, restoreGie]
    split <;> exact exec_answers _ _

theorem callStep_answers (c : Call) (s : State) : ∃ t, callStep c s = .next t := by
  unfold callStep
  split
  · exact ⟨_, rfl⟩
  · exact thenUnmarked_answers (callOpStep_answers _ _) fun t => ⟨_, rfl⟩

theorem itemStep_answers (it : Item) (s : State) : ∃ t, itemStep it s = .next t := by
  cases it with
  | command w =>
    simp only [itemStep, commandStep]
    split
    · exact ⟨_, rfl⟩
    · exact thenUnmarked_answers (exec_answers _ _) fun t => ⟨_, rfl⟩
  | pinit => simp only [itemStep, pinitStep]; split <;> exact ⟨_, rfl⟩
  | startTone f d =>
    simp only [itemStep, startToneStep]
    split
    · exact ⟨_, rfl⟩
    · exact ⟨_, rfl⟩
    · exact callStep_answers _ _
  | stopTone =>
    simp only [itemStep, stopToneStep]
    split
    · exact callStep_answers _ _
    · exact ⟨_, rfl⟩
  | isActive =>
    simp only [itemStep, isActiveStep]
    split
    · exact ⟨_, rfl⟩
    · exact callStep_answers _ _
  | saveGie =>
    simp only [itemStep]
    exact thenUnmarked_answers (callOpStep_answers .save s) fun t => ⟨_, rfl⟩
  | restoreGie =>
    simp only [itemStep]
    exact thenUnmarked_answers (callOpStep_answers .restore s) fun t => ⟨_, rfl⟩

/-- Every agent's step answers a next state: what stops a run is the mark it records. -/
theorem agentStep_answers (a : Agent) (s : State) : ∃ t, agentStep a s = .next t := by
  cases a with
  | mainline =>
    simp only [agentStep, mainlineStep]
    split
    · exact callStep_answers _ _
    · split
      · exact itemStep_answers _ _
      · exact ⟨_, rfl⟩
  | timer => exact settle_answers _ _
  | interrupt => exact settle_answers _ _

end Sys2Proof.Machine
end

