-- ==== Sys2Proof/Laws/PerInstr.lean ====
section
/-! SUPPORT. One lemma per command: its word belongs to its own row of the opcode table and to no other
(spec/30_encoding.md R84). -/

namespace Sys2Proof.Laws.OwnRow

/-- The word of the command matches exactly the command's own row. -/
def Statement (i : Instr) : Prop := ∀ r, r ∈ opTable → (r.accepts (encode i) = true ↔ r.op = opOf i)

/-- A row accepts only words with the row's own operation field, because every mask covers that field. -/
theorem opField_of_accepts {r : OpRow} {w : CmdWord} (hr : r ∈ opTable) (h : r.accepts w = true) :
    opField w = opField r.pattern := by
  have covers : ∀ r ∈ opTable, opField r.mask = BitVec.allOnes 4 := by decide
  rw [OpRow.accepts, beq_iff_eq] at h
  rw [← h, opField_and, covers r hr, BitVec.and_allOnes]

/-- The statement, from the command's own row and that it accepts the word. -/
theorem of_own_row {i : Instr} (own : OpRow) (ho : own ∈ opTable) (hop : own.op = opOf i)
    (hacc : own.accepts (encode i) = true) : Statement i := by
  have rows : ∀ a ∈ opTable, ∀ b ∈ opTable, opField a.pattern = opField b.pattern → a = b := by decide
  have ops : ∀ a ∈ opTable, ∀ b ∈ opTable, a.op = b.op → a = b := by decide
  intro r hr
  constructor
  · intro h
    rw [rows r hr own ho (by rw [← opField_of_accepts hr h, opField_of_accepts ho hacc]), hop]
  · intro h
    rw [ops r hr own ho (h.trans hop.symm), hacc]

/-- A mask of the operation field alone leaves that field and clears the operands. -/
theorem packWord_and (op reg : BitVec 4) (imm : Byte) : packWord op reg imm &&& 0xF000 = packWord op 0 0 := by
  have hm : (0xF000 : CmdWord) = packWord (BitVec.allOnes 4) 0 0 := by decide
  rw [hm]
  unfold packWord
  rw [BitVec.and_append, BitVec.and_append, BitVec.and_allOnes, show reg &&& 0 = 0 from BitVec.and_zero,
    show imm &&& 0 = 0 from BitVec.and_zero]

theorem wr (reg : Reg) (imm : Byte) : Statement (.wr reg imm) :=
  of_own_row ⟨.wr, 0x1000, 0xF000⟩ (by decide) rfl
    (by rw [OpRow.accepts, beq_iff_eq]; exact (packWord_and _ _ _).trans (by decide))

theorem rd (reg : Reg) : Statement (.rd reg) :=
  of_own_row ⟨.rd, 0x2000, 0xF0FF⟩ (by decide) rfl (by cases reg <;> decide)

theorem setb (reg : Reg) (mask : Byte) : Statement (.setb reg mask) :=
  of_own_row ⟨.setb, 0x3000, 0xF000⟩ (by decide) rfl
    (by rw [OpRow.accepts, beq_iff_eq]; exact (packWord_and _ _ _).trans (by decide))

theorem clrb (reg : Reg) (mask : Byte) : Statement (.clrb reg mask) :=
  of_own_row ⟨.clrb, 0x4000, 0xF000⟩ (by decide) rfl
    (by rw [OpRow.accepts, beq_iff_eq]; exact (packWord_and _ _ _).trans (by decide))

theorem ptog : Statement .ptog := of_own_row ⟨.ptog, 0x5000, 0xFFFF⟩ (by decide) rfl (by decide)

theorem pset : Statement .pset := of_own_row ⟨.pset, 0x6000, 0xFFFF⟩ (by decide) rfl (by decide)

theorem pclr : Statement .pclr := of_own_row ⟨.pclr, 0x7000, 0xFFFF⟩ (by decide) rfl (by decide)

theorem prd : Statement .prd := of_own_row ⟨.prd, 0x8000, 0xFFFF⟩ (by decide) rfl (by decide)

theorem giew (b : Bool) : Statement (.giew b) :=
  of_own_row ⟨.giew, 0x9000, 0xFFFE⟩ (by decide) rfl (by cases b <;> decide)

theorem gier : Statement .gier := of_own_row ⟨.gier, 0xA000, 0xFFFF⟩ (by decide) rfl (by decide)

end Sys2Proof.Laws.OwnRow
end

