-- ==== Sys2Proof/Machine/Assembler.lean ====
section
/-! DEFINITION. The assembler's text form of a script, one item a line (spec/30_encoding.md R91, R92, R93, R97). What the
spec's text leaves open of it is log entry 20. -/

namespace Sys2Proof.Machine

/-- A word of a line of text. -/
abbrev Token := List Char

/-- A blank between tokens. -/
def isBlank (c : Char) : Bool := c == ' ' || c == '\t'

/-- A character that is a token of its own: the comma of R91, the parentheses of R92 and R93, the colon of a label. -/
def isMark (c : Char) : Bool := c == ',' || c == '(' || c == ')' || c == ':'

/-- The token read so far, in reverse, as a token if it is not empty. -/
def endToken (cur : Token) : List Token := if cur.isEmpty then [] else [cur.reverse]

/-- The tokens of a line; `;` starts a comment that runs to its end (R91). -/
def tokensFrom (cur : Token) : List Char → List Token
  | [] => endToken cur
  | c :: rest =>
    if c = ';' then endToken cur
    else if isBlank c then endToken cur ++ tokensFrom [] rest
    else if isMark c then endToken cur ++ [[c]] ++ tokensFrom [] rest
    else tokensFrom (c :: cur) rest

/-- The tokens of a line without its label: `name:` at its start names a position and is read by no command (R91). -/
def lineTokens (line : String) : List Token :=
  match tokensFrom [] line.toList with
  | _ :: [':'] :: rest => rest
  | toks => toks

/-- The value of a digit character. -/
def digitValue (c : Char) : Option Nat :=
  if '0' ≤ c ∧ c ≤ '9' then some (c.toNat - '0'.toNat)
  else if 'a' ≤ c ∧ c ≤ 'f' then some (c.toNat - 'a'.toNat + 10)
  else if 'A' ≤ c ∧ c ≤ 'F' then some (c.toNat - 'A'.toNat + 10)
  else none

/-- The number that digits in a base spell, after the value `acc` of those before them. -/
def digitsValue (base acc : Nat) : List Char → Option Nat
  | [] => some acc
  | c :: rest =>
    match digitValue c with
    | some d => if d < base then digitsValue base (acc * base + d) rest else none
    | none => none

/-- A nonempty run of digits in a base. -/
def digitsIn (base : Nat) (t : Token) : Option Nat := if t.isEmpty then none else digitsValue base 0 t

/-- A number in decimal, `0x` hexadecimal or `0b` binary (R91). -/
def numberOf (t : Token) : Option Nat :=
  match t with
  | '0' :: 'x' :: ds => digitsIn 16 ds
  | '0' :: 'b' :: ds => digitsIn 2 ds
  | ds => digitsIn 10 ds

/-- A number 0..255 as a byte (R91). -/
def byteOf (n : Nat) : Option Byte := if n < 256 then some (BitVec.ofNat 8 n) else none

/-- An `<imm8>`: a number, a bit-mask name, or `CS(i)` (R91, R92). -/
def immOf (toks : List Token) : Option Byte :=
  match toks with
  | [t] =>
    if t = "CTC".toList then some maskCTC
    else if t = "OCIE".toList then some maskOCIE
    else if t = "OCF".toList then some maskOCF
    else (numberOf t).bind byteOf
  | [t, ['('], i, [')']] =>
    if t = "CS".toList then (numberOf i).bind fun n => byteOf (n + 1) else none
  | _ => none

/-- A `<reg>`: one of the names of R92. -/
def regOfName (t : Token) : Option Reg :=
  if t = "TMODE".toList then some .tmode
  else if t = "TPRESC".toList then some .tpresc
  else if t = "TCMP".toList then some .tcmp
  else if t = "TIMSK".toList then some .timsk
  else if t = "TIFR".toList then some .tifr
  else none

/-- A duration: a decimal millisecond count or the word `indefinite` (R93). -/
def durationOf (t : Token) : Option Duration :=
  if t = "indefinite".toList then some .indefinite else (digitsIn 10 t).map .finite

/-- A command whose operand is a register and a byte. -/
def regImmCommand (mk : Reg → Byte → Instr) (r : Token) (imm : List Token) : Option (List Item) :=
  match regOfName r, immOf imm with
  | some reg, some v => some (asItems [mk reg v])
  | _, _ => none

/-- The items that are one word: the commands without operands (R91), the pseudo-operations without operands (R97) and
`PINIT` (R93). -/
def bareItems (t : Token) : Option (List Item) :=
  if t = "PTOG".toList then some (asItems [.ptog])
  else if t = "PSET".toList then some (asItems [.pset])
  else if t = "PCLR".toList then some (asItems [.pclr])
  else if t = "PRD".toList then some (asItems [.prd])
  else if t = "GIER".toList then some (asItems [.gier])
  else if t = "CLI".toList then some (asItems opCli)
  else if t = "SEI".toList then some (asItems opSei)
  else if t = "ENABLE_IRQ".toList then some (asItems opEnableIrq)
  else if t = "DISABLE_IRQ".toList then some (asItems opDisableIrq)
  else if t = "CLEAR_PENDING".toList then some (asItems opClearPending)
  else if t = "FORCE_LOW".toList then some (asItems opForceLow)
  else if t = "CS_ENTER".toList then some csEnterItems
  else if t = "CS_EXIT".toList then some csExitItems
  else if t = "PINIT".toList then some [.pinit]
  else none

/-- The items with operands but no comma after the first: `RD`, `GIEW`, `CONFIGURE`, `ARM` (R91, R97). -/
def unaryItems (t : Token) (arg : List Token) : Option (List Item) :=
  if t = "RD".toList then
    match arg with
    | [r] => (regOfName r).map fun reg => asItems [.rd reg]
    | _ => none
  else if t = "GIEW".toList then
    match arg with
    | [['0']] => some (asItems [.giew false])
    | [['1']] => some (asItems [.giew true])
    | _ => none
  else if t = "CONFIGURE".toList then (immOf arg).map fun cv => asItems (opConfigure cv)
  else if t = "ARM".toList then
    match arg with
    | [i] => (numberOf i).bind fun n => (byteOf (n + 1)).map fun _ => asItems (opArm n)
    | _ => none
  else none

/-- The items of a line's tokens; none where the line is not of the syntax. An empty line has no item. -/
def itemsOf (toks : List Token) : Option (List Item) :=
  match toks with
  | [] => some []
  | [t] => bareItems t
  | [t, ['('], [')']] =>
    if t = "stop_tone".toList then some [.stopTone]
    else if t = "is_active".toList then some [.isActive]
    else none
  | [t, ['('], f, [','], d, [')']] =>
    if t = "start_tone".toList then
      match digitsIn 10 f, durationOf d with
      | some n, some dur => some [.startTone n dur]
      | _, _ => none
    else none
  | t :: r :: [','] :: imm =>
    if t = "WR".toList then regImmCommand .wr r imm
    else if t = "SETB".toList then regImmCommand .setb r imm
    else if t = "CLRB".toList then regImmCommand .clrb r imm
    else none
  | t :: arg => unaryItems t arg

/-- The script that lines of text spell; none where one of them is not of the syntax. -/
def assemble : List String → Option (List Item)
  | [] => some []
  | line :: rest =>
    match itemsOf (lineTokens line), assemble rest with
    | some items, some more => some (items ++ more)
    | _, _ => none

end Sys2Proof.Machine
end

