-- ==== Sys2Proof/Tests/Slice0.lean ====
section
/-! SUPPORT. Tests against the vectors of spec/95_test_vectors.md and the encodings of spec/30_encoding.md, the smoke test
of the checks, and a witness for the hypotheses of every statement that has some. -/

namespace Sys2Proof.Tests

open Sys2Proof.Machine

/-- The next state of an outcome, where it is one. -/
def nx : Outcome → Option State
  | .next s => some s
  | .fault _ => none
  | .refused _ => none

/-- The first fault recorded after one step. -/
def faultAfter (o : Outcome) : Option Fault := (nx o).bind (·.fault)

/-- The first refusal recorded after one step. -/
def refusalAfter (o : Outcome) : Option Refusal := (nx o).bind (·.refused)

/-- The state after reset and `PINIT`. -/
def booted : State := { State.reset with capTaken := true }

/-- A state with an interrupt request: vectors H1 to H5. -/
def requested : State := { booted with flag := true, ocie := true, gie := true, wgm := 2, cs := 1 }

/-- A state with one script item next and Mainline's turn `n` times. -/
def withItem (it : Item) (n : Nat) (s : State) : State :=
  { s with script := [it], mpos := 0, schedule := List.replicate n .mainline }

/-! ## The checks on instances and scripts -/

/-- R12: the default instance passes, and so does one of a single divider. -/
theorem test_instance_ok :
    Params.default.wf = true ∧ { Params.default with clockHz := 1, dividers := [1] }.wf = true := by decide

/-- R12: one ill-formed instance for each check. -/
theorem test_instance_refused :
    { Params.default with clockHz := 0 }.wf = false ∧ { Params.default with dividers := [] }.wf = false
      ∧ { Params.default with dividers := [1, 2, 3, 4, 5, 6, 7, 8] }.wf = false
      ∧ { Params.default with dividers := [0, 1] }.wf = false
      ∧ { Params.default with dividers := [1, 8, 8] }.wf = false := by decide

/-- R97: `CS_EXIT` needs its own `CS_ENTER`. -/
theorem test_script_sections :
    scriptWf (csEnterItems ++ csExitItems) = true ∧ scriptWf (csEnterItems ++ csExitItems ++ csExitItems) = false := by
  decide

/-! ## Decoding: words written out from R81, R84 -/

theorem test_decode_registers :
    decode 0b0001_0011_1000_1101 = .ok (.wr .tcmp 141) ∧ decode 0b0010_0001_0000_0000 = .ok (.rd .tpresc)
      ∧ decode 0b0011_0100_0000_0010 = .ok (.setb .timsk 2) ∧ decode 0b0100_0101_0000_0010 = .ok (.clrb .tifr 2)
      ∧ decode 0b0001_0000_0000_0010 = .ok (.wr .tmode 2) := by decide

theorem test_decode_pin :
    decode 0b0101_0000_0000_0000 = .ok .ptog ∧ decode 0b0110_0000_0000_0000 = .ok .pset
      ∧ decode 0b0111_0000_0000_0000 = .ok .pclr ∧ decode 0b1000_0000_0000_0000 = .ok .prd := by decide

theorem test_decode_enable :
    decode 0b1001_0000_0000_0000 = .ok (.giew false) ∧ decode 0b1001_0000_0000_0001 = .ok (.giew true)
      ∧ decode 0b1010_0000_0000_0000 = .ok .gier := by decide

/-- Vectors D-1, D-7, D-13, D-14, D-16, D-18, D-19, D-21, D-22. -/
theorem test_decode_illegal :
    decode 0x0000 = .error (.illegalCommand 0x0000)
      ∧ decode 0x2101 = .error (.illegalCommand 0x2101)
      ∧ decode 0x5001 = .error (.illegalCommand 0x5001)
      ∧ decode 0x5100 = .error (.illegalCommand 0x5100)
      ∧ decode 0x8080 = .error (.illegalCommand 0x8080)
      ∧ decode 0x9002 = .error (.illegalCommand 0x9002)
      ∧ decode 0x9100 = .error (.illegalCommand 0x9100)
      ∧ decode 0xA001 = .error (.illegalCommand 0xA001)
      ∧ decode 0xB000 = .error (.illegalCommand 0xB000)
      ∧ decode 0xF123 = .error (.illegalCommand 0xF123)
      ∧ decode 0xFFFF = .error (.illegalCommand 0xFFFF) := by decide

/-- Vectors D-3, D-4, D-5, D-8, D-11. -/
theorem test_decode_reserved :
    decode 0x1200 = .error (.reservedRegister 0x1200)
      ∧ decode 0x1600 = .error (.reservedRegister 0x1600)
      ∧ decode 0x1F00 = .error (.reservedRegister 0x1F00)
      ∧ decode 0x2200 = .error (.reservedRegister 0x2200)
      ∧ decode 0x4CFF = .error (.reservedRegister 0x4CFF) := by decide

/-- The words of vectors E8, E4 and of R85, encoded. -/
theorem test_encode :
    encode (.wr .tcmp 0x8D) = 0x138D ∧ encode (.wr .tpresc (csValue 3)) = 0x1104
      ∧ encode (.wr .tpresc (csValue 6)) = 0x1107 ∧ encode (.setb .timsk maskOCIE) = 0x3402
      ∧ encode (.clrb .timsk maskOCIE) = 0x4402 ∧ encode (.wr .tifr maskOCF) = 0x1502
      ∧ encode (.giew true) = 0x9001 := by decide

theorem test_decodeTableWord :
    decodeTableWord 16 0x138D = some (.wr .tcmp 141) ∧ decodeTableWord 16 0x2101 = none
      ∧ decodeTableWord 16 0xA000 = some .gier := by decide

/-- A placed word is the first thing the machine runs after reset. -/
theorem test_withFetchWord :
    (nx (step (State.reset.withFetchWord 16 0x138D))).map (fun s => (s.ocr, s.mpos)) = some (141, 1) := by decide

/-! ## The register commands: vectors G1 to G23 -/

theorem test_wr_faults :
    faultAfter (exec (.wr .tmode 4) State.reset) = some (.reservedBit 0x1004)
      ∧ faultAfter (exec (.wr .tpresc 8) State.reset) = some (.reservedBit 0x1108)
      ∧ faultAfter (exec (.wr .timsk 1) State.reset) = some (.reservedBit 0x1401)
      ∧ faultAfter (exec (.wr .tifr 1) { State.reset with flag := true }) = some (.reservedBit 0x1501)
      ∧ faultAfter (exec (.wr .tpresc 3) (State.resetOf { Params.default with dividers := [1, 8] }))
          = some (.reservedPrescaler 0x1103) := by decide

theorem test_wr_writes :
    (nx (exec (.wr .tmode 3) State.reset)).map (·.wgm) = some 3
      ∧ (nx (exec (.wr .tpresc 7) State.reset)).map (·.cs) = some 7
      ∧ (nx (exec (.wr .tcmp 0xFF) State.reset)).map (·.ocr) = some 255
      ∧ (nx (exec (.wr .timsk 2) State.reset)).map (·.ocie) = some true
      ∧ (nx (exec (.wr .tifr 0) { State.reset with flag := true })).map (·.flag) = some true
      ∧ (nx (exec (.wr .tifr 2) { State.reset with flag := true })).map (·.flag) = some false
      ∧ nx (exec (.wr .tpresc 4) { State.reset with cs := 4, phase := 9 }) = some { State.reset with cs := 4, phase := 9 }
      ∧ nx (exec (.wr .tpresc 0) { State.reset with cs := 1, cnt := 7 }) = some { State.reset with cnt := 7 } := by decide

theorem test_rd :
    (nx (exec (.rd .tmode) State.reset)).map (·.answer) = some (some 0)
      ∧ (nx (exec (.rd .tifr) { State.reset with flag := true })).map (fun s => (s.answer, s.flag))
          = some (some 2, true) := by decide

theorem test_setb :
    faultAfter (exec (.setb .timsk 0x80) State.reset) = some (.reservedBit 0x3480)
      ∧ (nx (exec (.setb .tpresc 4) { State.reset with cs := 3 })).map (·.cs) = some 7
      ∧ (nx (exec (.setb .tifr 0) { State.reset with flag := true })).map (·.flag) = some false := by decide

theorem test_clrb_timsk :
    (nx (exec (.clrb .timsk 0xFD) { State.reset with ocie := true })).map (fun s => (s.ocie, s.fault))
        = some (true, none)
      ∧ (nx (exec (.clrb .timsk 0xFF) { State.reset with ocie := true })).map (fun s => (s.ocie, s.fault))
        = some (false, none)
      ∧ nx (exec (.clrb .timsk 2) State.reset) = some State.reset := by decide

theorem test_clrb_others :
    (nx (exec (.clrb .tpresc 1) { State.reset with cs := 3 })).map (·.cs) = some 2
      ∧ (nx (exec (.clrb .tifr 0) { State.reset with flag := true })).map (·.flag) = some false
      ∧ (nx (exec (.clrb .tifr 2) { State.reset with flag := true })).map (·.flag) = some true := by decide

/-- R161: the phase of a new select is the free draw. -/
theorem test_select_draws :
    (nx (exec (.wr .tpresc 7) State.reset)).map (·.phase) = some (drawBelow 0 1024) := by rfl

/-! ## The global enable and the pin: vectors I1 to I5, P-1 to P-8 -/

theorem test_giew : (nx (exec (.giew true) State.reset)).map (fun s => (s.gie, enabled .interrupt s)) = some (true, false)
    ∧ (nx (exec (.giew true) { requested with gie := false })).map (enabled .interrupt) = some true := by decide

theorem test_gier : (nx (exec .gier State.reset)).map (·.answer) = some (some 0)
    ∧ (nx (exec .gier { State.reset with gie := true })).map (·.answer) = some (some 1) := by decide

theorem test_ptog : refusalAfter (exec .ptog State.reset) = some .noCapability
    ∧ nx (exec .ptog booted) = some { booted with pin := true }
    ∧ nx (exec .ptog { booted with pin := true }) = some booted := by decide

theorem test_pset : nx (exec .pset booted) = some { booted with pin := true }
    ∧ nx (exec .pset { booted with pin := true }) = some { booted with pin := true } := by decide

theorem test_pclr : nx (exec .pclr { booted with pin := true }) = some booted := by decide

theorem test_prd : refusalAfter (exec .prd State.reset) = some .pinUnspecified
    ∧ (nx (exec .prd { booted with pin := true })).map (·.answer) = some (some 1) := by decide

theorem test_pinit :
    nx (mainlineStep (withItem .pinit 0 { State.reset with pin := true }))
        = some { withItem .pinit 0 booted with mpos := 1 }
      ∧ refusalAfter (mainlineStep (withItem .pinit 0 booted)) = some .capabilityTwice := by decide

/-! ## The timer: vectors T1, T5, T6, T7, T8 -/

/-- The set-up of vector T1. -/
def matching : State := { State.reset with wgm := 2, ocr := 2, cs := 1, ocie := true }

theorem test_timer_wraps_at_compare :
    (List.range 8).map (fun n => (nx (timerRun n matching)).map fun s => (s.cnt, s.flag))
      = [some (0, false), some (1, false), some (2, false), some (0, true), some (1, true), some (2, true),
         some (0, true), some (1, true)] := by decide

/-- A counter above the compare value wraps through 255 (R168). -/
theorem test_timer_wraps_at_255 :
    (nx (timerStep { matching with cnt := 255 })).map (fun s => (s.cnt, s.flag)) = some (0, false) := by decide

theorem test_timer_masked_match :
    (nx (timerStep { matching with ocr := 0, ocie := false })).map (·.flag) = some true
      ∧ (nx (timerStep { matching with
          ocr := 0, ocie := false, params := { Params.default with latchWhileMasked := false } })).map (·.flag)
          = some false := by decide

theorem test_timer_other_mode_and_stopped :
    faultAfter (timerStep { matching with wgm := 0 }) = some (.unmodelledMode 0)
      ∧ nx (timerStep { matching with cs := 0 }) = some { matching with cs := 0 } := by decide

/-! ## The handler: vectors H1 to H5 -/

theorem test_handler_active :
    nx (interruptStep { requested with budget := .indefinite })
        = some { requested with budget := .indefinite, flag := false, pin := true }
      ∧ nx (interruptStep { requested with budget := .finite 5, pin := true })
        = some { requested with budget := .finite 4, flag := false, pin := false }
      ∧ nx (interruptStep { requested with budget := .finite 1 })
        = some { requested with budget := .finite 0, flag := false, pin := true } := by decide

theorem test_handler_terminal :
    nx (interruptStep { requested with pin := true }) = some { requested with flag := false, ocie := false }
      ∧ nx (interruptStep requested) = some { requested with flag := false, ocie := false } := by decide

/-! ## The encoder: vectors E1, E2, E4, E6, E8, E10, E11, E20, E21, E23, B1, B2, B3, B9 -/

theorem test_encoder_errors :
    computeTimerProgram 7 0 1000000 = .err .zeroFrequency
      ∧ computeTimerProgram 7 1 1000000 = .err .frequencyTooLow
      ∧ computeTimerProgram 7 500001 1000000 = .refused .encoderUnderflow
      ∧ computeTimerProgram 7 440 16000000 = .err .frequencyTooLow := by decide

theorem test_encoder_programs :
    computeTimerProgram 7 440 1000000 = .ok ⟨3, 141⟩ ∧ computeTimerProgram 7 31 1000000 = .ok ⟨6, 251⟩
      ∧ computeTimerProgram 7 61 1000000 = .ok ⟨5, 255⟩ ∧ computeTimerProgram 7 1945 1000000 = .ok ⟨1, 127⟩
      ∧ computeTimerProgram 7 1946 1000000 = .ok ⟨0, 255⟩ ∧ computeTimerProgram 7 500000 1000000 = .ok ⟨0, 0⟩ := by
  decide

theorem test_budget :
    computeToggleBudget 440 (.finite 2000) = .finite 1760 ∧ computeToggleBudget 1 (.finite 499) = .finite 0
      ∧ computeToggleBudget 1 (.finite 500) = .finite 1 ∧ computeToggleBudget 440 .indefinite = .indefinite := by decide

/-! ## The tone API: vectors A2 to A7, and its first steps -/

theorem test_start_tone_errors :
    (nx (mainlineStep (withItem (.startTone 0 (.finite 100)) 0 booted))).map (·.results)
        = some [.startError .zeroFrequency]
      ∧ (nx (mainlineStep (withItem (.startTone 1 (.finite 100)) 0 booted))).map (·.results)
        = some [.startError .frequencyTooLow]
      ∧ (nx (mainlineStep (withItem (.startTone 0 (.finite 0)) 0 booted))).map (·.results)
        = some [.startError .zeroFrequency] := by decide

theorem test_start_tone_refusals :
    refusalAfter (mainlineStep (withItem (.startTone 500001 (.finite 100)) 0 booted)) = some .encoderUnderflow
      ∧ refusalAfter (mainlineStep (withItem (.startTone 440 (.finite 0)) 0 booted)) = some .zeroDuration
      ∧ refusalAfter (mainlineStep (withItem (.startTone 440 (.finite 2000)) 0 State.reset)) = some .noCapability
      ∧ refusalAfter (mainlineStep (withItem (.startTone 440 (.finite 2000)) 0
          { booted with params := { Params.default with budgetMax := some 1759 } })) = some .budgetTooLarge
      ∧ refusalAfter (mainlineStep (withItem .stopTone 0 State.reset)) = some .noCapability := by decide

/-- `is_active` before `PINIT`: refused where the instance gates it (R294), begun where it does not (R228). -/
theorem test_is_active_before_pinit :
    refusalAfter (mainlineStep (withItem .isActive 0 State.reset)) = some .noCapability
      ∧ (nx (mainlineStep (withItem .isActive 0 (State.resetOf { Params.default with gateIsActive := false })))).map
          (fun s => (s.refused, s.call.isSome)) = some (none, true) := by decide

/-- R223: the words `start_tone(440, _)` issues between the ends of its critical section (R85, vector E8). -/
theorem test_start_tone_words :
    (startToneBody ⟨3, 141⟩ (.finite 1760)).map (fun op => match op with | .cmd i => some (encode i) | _ => none)
      = [some 0x4402, some 0x7000, some 0x1002, some 0x138D, some 0x1104, none, some 0x1502, some 0x3402] := by decide

/-- R97, R220: `CS_ENTER` and `CS_EXIT` in a script (vector I5). -/
theorem test_critical_section_items :
    (nx (mainlineStep (withItem .saveGie 0 { State.reset with gie := true }))).map (·.held) = some [true]
      ∧ (nx (mainlineStep (withItem .restoreGie 0 { State.reset with held := [true] }))).map
          (fun s => (s.gie, s.held, s.mpos)) = some (true, [], 1)
      ∧ (nx (mainlineStep (withItem .restoreGie 0 State.reset))).map (·.mpos) = some 1 := by decide

/-! ## The assembler (R91 to R93, R97) -/

theorem test_assemble :
    assemble ["PINIT ; boot", "main: WR TPRESC, CS(3)", "CLRB TIMSK, OCIE", "WR TCMP, 0b10001101", "GIEW 1", "",
        "start_tone(440, indefinite)"]
      = some [.pinit, .command 0x1104, .command 0x4402, .command 0x138D, .command 0x9001,
          .startTone 440 .indefinite] := by decide

theorem test_assemble_rejects :
    assemble ["WR TCNT, 0"] = none ∧ assemble ["WR TCMP, 256"] = none ∧ assemble ["GIEW 2"] = none := by decide

/-! ## Witnesses: concrete inputs that meet the hypotheses of the statements, clause by clause -/

/-- EncodeOfDecodeIsTheWord; OpcodeTableIsTheDecoder. -/
theorem witness_decoding_word :
    decode 0x138D = .ok (.wr .tcmp 141) ∧ (⟨.wr, 0x1000, 0xF000⟩ : OpRow) ∈ opTable
      ∧ (⟨.wr, 0x1000, 0xF000⟩ : OpRow).accepts 0x138D = true ∧ (⟨.gier, 0xA000, 0xFFFF⟩ : OpRow).accepts 0xA000 = true :=
  by decide

/-- IllegalWordsFaultAndChangeNothing: each kind of illegal word, and its legal neighbours. -/
theorem witness_illegal_words :
    illegalWord 0x0FFF ∧ illegalWord 0xB000 ∧ illegalWord 0x5001 ∧ illegalWord 0xAFFF ∧ illegalWord 0x9002
      ∧ illegalWord 0x2001 ∧ ¬ illegalWord 0x1000 ∧ ¬ illegalWord 0xA000 ∧ ¬ illegalWord 0x9001 ∧ ¬ illegalWord 0x2200
      ∧ State.reset.fault = none := by
  unfold illegalWord wordOp wordImm
  refine ⟨?_, ?_, ?_, ?_, ?_, ?_, ?_, ?_, ?_, ?_, rfl⟩ <;> decide

/-- ReservedRegisterWordsFault: each operation, at the ends of 2 and 6..15. -/
theorem witness_reserved_words :
    reservedRegisterWord 0x1200 ∧ reservedRegisterWord 0x2600 ∧ reservedRegisterWord 0x3FFF
      ∧ reservedRegisterWord 0x4200 ∧ ¬ reservedRegisterWord 0x1100 ∧ ¬ reservedRegisterWord 0x1300
      ∧ ¬ reservedRegisterWord 0x2501 ∧ ¬ reservedRegisterWord 0x2601 := by
  unfold reservedRegisterWord wordOp wordReg wordImm; decide

/-- StepRunsTheDecodedCommand, with a command that completes and hands over a value, and one that is refused. -/
theorem witness_step_runs :
    let s := withItem (.command 0x2300) 1 booted
    let r := withItem (.command 0x5000) 1 State.reset
    (s.fault = none ∧ s.refused = none ∧ s.params.wf = true ∧ s.call = none ∧ s.schedule = [.mainline]
        ∧ s.script[s.mpos]? = some (.command 0x2300) ∧ decode 0x2300 = .ok (.rd .tcmp)
        ∧ (nx (exec (.rd .tcmp) { s with schedule := [] })).isSome = true)
      ∧ r.fault = none ∧ r.refused = none ∧ r.params.wf = true ∧ r.call = none ∧ r.schedule = [.mainline]
        ∧ r.script[r.mpos]? = some (.command 0x5000) ∧ decode 0x5000 = .ok .ptog
        ∧ (nx (exec .ptog { r with schedule := [] })).map marked = some true := by decide

/-- StepOfARejectedWordRecordsTheFault. -/
theorem witness_rejected_word :
    let s := withItem (.command 0x1200) 1 State.reset
    s.fault = none ∧ s.refused = none ∧ s.params.wf = true ∧ s.call = none ∧ s.schedule = [.mainline]
      ∧ s.script[s.mpos]? = some (.command 0x1200) ∧ decode 0x1200 = .error (.reservedRegister 0x1200) := by decide

/-- StoppedMachineHasNoStep: a fault alone, a refusal alone. -/
theorem witness_stopped :
    (raiseFault (.illegalCommand 0) State.reset).fault = some (.illegalCommand 0)
      ∧ (refuse .noCapability State.reset).fault = none
      ∧ (refuse .noCapability State.reset).refused = some .noCapability := by decide

/-- EveryStepIsOneAgentsStep, AnyEnabledAgentMayGoFirst and EnablingConditions: a state where all three agents are
enabled, and one of its steps. -/
theorem witness_all_enabled :
    let s := withItem .isActive 1 requested
    s.params.wf = true ∧ enabled .mainline s = true ∧ enabled .timer s = true ∧ enabled .interrupt s = true
      ∧ (nx (step s)).isSome = true := by decide

/-- BadInstanceIsRefused. -/
theorem witness_bad_instance :
    let s := State.resetOf { Params.default with clockHz := 0 }
    s.params.wf = false ∧ s.fault = none ∧ s.refused = none := by decide

/-- WrFollowsRegWrite, SetbWritesBackTheOr, ClrbWritesBackTheAndNot: the last legal and the first illegal value of each
register, on an instance of two dividers. -/
theorem witness_register_writes :
    let s := State.resetOf { Params.default with dividers := [1, 8] }
    s.fault = none ∧ s.cs.toNat ≤ s.params.nDiv
      ∧ faultAfter (exec (.wr .tmode 3) s) = none ∧ faultAfter (exec (.wr .tmode 4) s) = some (.reservedBit 0x1004)
      ∧ faultAfter (exec (.wr .tpresc 2) s) = none
      ∧ faultAfter (exec (.wr .tpresc 3) s) = some (.reservedPrescaler 0x1103)
      ∧ faultAfter (exec (.wr .tpresc 7) s) = some (.reservedPrescaler 0x1107)
      ∧ faultAfter (exec (.wr .tpresc 8) s) = some (.reservedBit 0x1108)
      ∧ faultAfter (exec (.wr .timsk 3) s) = some (.reservedBit 0x1403)
      ∧ faultAfter (exec (.setb .tpresc 1) { s with cs := 2 }) = some (.reservedPrescaler 0x3101)
      ∧ faultAfter (exec (.setb .tifr 3) s) = some (.reservedBit 0x3503)
      ∧ faultAfter (exec (.clrb .tpresc 0xFF) { s with cs := 2 }) = none
      ∧ faultAfter (exec (.clrb .timsk 0xFD) s) = none := by decide

/-- DrawnPhaseIsBelowTheDivider: the first and the last divider of the default instance. -/
theorem witness_dividers :
    Params.default.wf = true ∧ (1 : BitVec 3) ≠ 0 ∧ (1 : BitVec 3).toNat ≤ Params.default.nDiv
      ∧ divider Params.default 1 = 1 ∧ (7 : BitVec 3).toNat ≤ Params.default.nDiv ∧ divider Params.default 7 = 1024 := by
  decide

/-- RegistersAreIndependentlyWritable and CommandsLeaveTheHiddenState. -/
theorem witness_independent_writes :
    Reg.tcmp ≠ Reg.timsk ∧ (nx (exec (.wr .tcmp 9) State.reset)).isSome = true
      ∧ (nx (exec (.setb .tcmp 9) State.reset)).isSome = true
      ∧ (nx (exec (.clrb .tcmp 9) State.reset)).isSome = true := by decide

/-- RepeatedCommandsAreIdempotent: a command of each kind, and two `PTOG`. -/
theorem witness_repeated :
    opOf (.wr .tpresc 3) ∈ [Op.wr, Op.setb, Op.clrb, Op.pset, Op.pclr, Op.giew]
      ∧ opOf .pset ∈ [Op.wr, Op.setb, Op.clrb, Op.pset, Op.pclr, Op.giew]
      ∧ (nx (exec (.wr .tpresc 3) booted)).isSome = true ∧ booted.capTaken = true
      ∧ nx (exec .ptog booted) = some { booted with pin := true }
      ∧ nx (exec .ptog { booted with pin := true }) = some booted := by decide

/-- RegistersStandAtTheirAddresses, at a `TIMER_BASE` of 100: the last register, the ends of the reserved numbers, and the
addresses beside the window. -/
theorem witness_bus_addresses :
    let s := State.resetOf { Params.default with timerBase := 100 }
    memRead 0x2500 105 s = some (.ok 0) ∧ memRead 0x2200 102 s = some (.error (.fault (.reservedRegister 0x2200)))
      ∧ memRead 0x2600 106 s = some (.error (.fault (.reservedRegister 0x2600)))
      ∧ memRead 0x2F00 115 s = some (.error (.fault (.reservedRegister 0x2F00)))
      ∧ memRead 0x2500 99 s = none ∧ memRead 0x2500 116 s = none := by decide

/-- The same addresses, written. -/
theorem witness_bus_writes :
    let s := State.resetOf { Params.default with timerBase := 100 }
    memWrite 0x1309 103 9 s = some (.ok { s with ocr := 9 })
      ∧ memWrite 0x1200 102 0 s = some (.error (.fault (.reservedRegister 0x1200)))
      ∧ memWrite 0x1F00 115 0 s = some (.error (.fault (.reservedRegister 0x1F00)))
      ∧ memWrite 0x1300 99 0 s = none ∧ memWrite 0x1300 116 0 s = none := by decide

/-- The statements about pin commands with and without the capability. -/
theorem witness_capability :
    booted.capTaken = true ∧ State.reset.capTaken = false ∧ State.reset.refused = none := by decide

/-- PrescalerCountsSystemClocks and TimerTickCountsAndMatches: a stopped timer, a prescaler short of its divider, and a
tick in each of the three cases. -/
theorem witness_ticks :
    State.reset.cs = 0
      ∧ ({ matching with cs := 2, phase := 6 }.cs ≠ 0
          ∧ { matching with cs := 2, phase := 6 }.phase + 1 ≠ divider matching.params 2)
      ∧ { matching with cs := 2, phase := 7 }.phase + 1 = divider matching.params 2
      ∧ { matching with wgm := 1 }.wgm ≠ 0b10 ∧ { matching with cnt := 2 }.cnt = matching.ocr
      ∧ matching.cnt ≠ matching.ocr := by decide

/-- CompareMatchIntervalIsExact and FirstCompareMatchAfterReprogramming: a counter at, below and above the compare
value. -/
theorem witness_intervals :
    matching.params.wf = true ∧ matching.wgm = 0b10 ∧ matching.cs ≠ 0 ∧ matching.cs.toNat ≤ matching.params.nDiv
      ∧ matching.cnt = 0 ∧ matching.phase = 0 ∧ matching.phase < divider matching.params matching.cs
      ∧ ticksToMatch { matching with cnt := 2 } = 1 ∧ ticksToMatch { matching with ocr := 5, cnt := 3 } = 3
      ∧ ticksToMatch { matching with ocr := 5, cnt := 10 } = 252 := by decide

/-- The statements about one handler step. -/
theorem witness_requests :
    requested.capTaken = true ∧ irqRequest requested = true ∧ requested.budget = .finite 0
      ∧ { requested with budget := .finite 1 }.budget = .finite (0 + 1)
      ∧ { requested with capTaken := false }.refused = none := by decide

/-- A finite tone of one toggle with a match on every tick, from its start to its rest. -/
def toneRun : Nat → State
  | 0 => { booted with wgm := 2, cs := 1, ocie := true, gie := true, budget := .finite 1 }
  | 1 => { booted with wgm := 2, cs := 1, ocie := true, gie := true, budget := .finite 1, flag := true }
  | 2 => { booted with wgm := 2, cs := 1, ocie := true, gie := true, pin := true }
  | 3 => { booted with wgm := 2, cs := 1, ocie := true, gie := true, pin := true, flag := true }
  | 4 => { booted with wgm := 2, cs := 1, gie := true }
  | _ + 5 => { booted with wgm := 2, cs := 1, gie := true, flag := true }

/-- Its agents: two compare matches are served, and then only the Timer steps. -/
def toneAgents : Nat → Agent
  | 1 => .interrupt
  | 3 => .interrupt
  | _ => .timer

theorem witness_toneRun : Run toneRun toneAgents := by
  intro m k _
  match k with
  | 0 | 1 | 2 | 3 | 4 => exact ⟨rfl, rfl⟩
  | _ + 5 => exact ⟨rfl, rfl⟩

/-- FairFiniteToneEndsAfterItsBudget. -/
theorem witness_fair_run :
    TimerFair toneAgents ∧ InterruptFair toneRun toneAgents
      ∧ (∀ k, toneAgents k = .mainline → leavesTone (toneRun k) (toneRun (k + 1)))
      ∧ (∀ k, toneAgents k = .mainline → leavesTimer (toneRun k) (toneRun (k + 1)))
      ∧ (∀ k, toneAgents k = .mainline → (toneRun (k + 1)).pin = (toneRun k).pin)
      ∧ (toneRun 0).params.wf = true ∧ (toneRun 0).wgm = 0b10 ∧ (toneRun 0).cs ≠ 0
      ∧ (toneRun 0).phase < divider (toneRun 0).params (toneRun 0).cs
      ∧ (toneRun 0).ocie = true ∧ (toneRun 0).gie = true ∧ (toneRun 0).capTaken = true
      ∧ (toneRun 0).budget = .finite 1 := by
  have noMainline : ∀ k, toneAgents k ≠ .mainline := fun k => by
    match k with
    | 0 | 1 | 2 | 3 | 4 => decide
    | _ + 5 => exact (by decide : Agent.timer ≠ Agent.mainline)
  refine ⟨fun n => ⟨n + 5, Nat.le_add_right n 5, rfl⟩, fun n h => ?_, fun k h => absurd h (noMainline k),
    fun k h => absurd h (noMainline k), fun k h => absurd h (noMainline k), by decide⟩
  exact absurd (h (n + 5) (Nat.le_add_right n 5)) (by decide : ¬ false = true)

/-- ToggleBudgetIsConserved: the run's first five steps, before and after its terminal one. -/
theorem witness_conserved :
    RunTo toneRun toneAgents 5 ∧ (∀ k, k < 5 → toneAgents k = .mainline → leavesTone (toneRun k) (toneRun (k + 1)))
      ∧ (toneRun 5).fault = none ∧ (toneRun 5).refused = none ∧ (toneRun 0).budget = .finite 1
      ∧ toggles toneRun toneAgents 5 = 1 ∧ terminals toneRun toneAgents 3 = 0 ∧ terminals toneRun toneAgents 5 = 1 := by
  refine ⟨witness_toneRun 5, fun k _ h => ?_, by decide⟩
  exact witness_fair_run.2.2.1 k h

/-- MaskedToneStaysDone: the run from its rest on. -/
theorem witness_masked :
    RunTo (fun k => toneRun (k + 5)) (fun k => toneAgents (k + 5)) 3
      ∧ (∀ k, k < 3 → (fun k => toneAgents (k + 5)) k ≠ .mainline) ∧ (toneRun (0 + 5)).ocie = false := by
  refine ⟨fun k hk => witness_toneRun (k + 6) (k + 5) (Nat.lt_succ_self _), ?_, rfl⟩
  decide

/-- EncoderRejectsZeroAndUnderflow, EncoderClosedForm, EncoderProgramIsMinimalAndInRange: `q` of 0, 1, 256, 257, and the
ends of the last index's range. -/
theorem witness_encoder :
    1000000 < 2 * 500001 ∧ 1 ≤ 1000000 / (2 * 500000) ∧ 1000000 / (2 * 1946) = 256 ∧ 1000000 / (2 * 1945) = 257
      ∧ computeTimerProgram 7 1945 1000000 = .ok ⟨1, 127⟩
      ∧ computeTimerProgram 7 1 (2 * 16447) = .ok ⟨6, 255⟩
      ∧ computeTimerProgram 7 1 (2 * 16448) = .err .frequencyTooLow := by decide

/-- HalfPeriodReconstructionForDoublingDividers: the instance of vectors E34 and E35. -/
theorem witness_doubling :
    let p := { Params.default with dividers := [1, 2, 4, 8, 16, 32, 64] }
    (∀ i, i < p.nDiv → p.dividers[i]? = some (2 ^ i)) ∧ 1 ≤ p.nDiv
      ∧ computeTimerProgram p.nDiv 1945 p.clockHz = .ok ⟨1, 127⟩ := by decide

/-- StartToneErrorChangesNothing and StartToneRefusalsInOrder: an error, and each refusal. -/
theorem witness_start_tone_answers :
    computeTimerProgram 7 0 1000000 = .err .zeroFrequency
      ∧ computeTimerProgram 7 500001 1000000 = .refused .encoderUnderflow
      ∧ computeTimerProgram 7 440 1000000 = .ok ⟨3, 141⟩
      ∧ computeToggleBudget 440 (.finite 2000) = .finite 1760
      ∧ (withItem (.startTone 440 (.finite 2000)) 0 booted).call = none
      ∧ (withItem (.startTone 440 (.finite 2000)) 0 booted).script[0]? = some (.startTone 440 (.finite 2000)) := by
  decide

/-- StartToneArmsTheTone, at vector A1. -/
theorem witness_start_tone :
    let s := withItem (.startTone 440 (.finite 2000)) 11 { booted with gie := true }
    s.params.wf = true ∧ s.fault = none ∧ s.refused = none ∧ s.call = none ∧ s.answer = none
      ∧ s.script[s.mpos]? = some (.startTone 440 (.finite 2000))
      ∧ computeTimerProgram s.params.nDiv 440 s.params.clockHz = .ok ⟨3, 141⟩ ∧ Duration.finite 2000 ≠ .finite 0
      ∧ s.capTaken = true ∧ computeToggleBudget 440 (.finite 2000) = .finite 1760 ∧ s.params.budgetMax = none
      ∧ s.schedule = List.replicate 11 .mainline ++ [] := by decide

/-- IsActiveReportsTheBudget without the capability: on an instance that does not gate the call, and on one that does. -/
theorem witness_is_active_before_pinit :
    let s := withItem .isActive 4 (State.resetOf { Params.default with gateIsActive := false })
    let r := withItem .isActive 4 State.reset
    (s.params.gateIsActive = false ∧ s.params.wf = true ∧ s.fault = none ∧ s.refused = none ∧ s.call = none
        ∧ s.answer = none ∧ s.script[s.mpos]? = some .isActive ∧ s.schedule = List.replicate 4 .mainline ++ [])
      ∧ r.capTaken = false ∧ r.params.gateIsActive = true ∧ r.refused = none ∧ r.call = none
        ∧ r.script[r.mpos]? = some .isActive := by decide

/-- StopToneSilencesTheTone and IsActiveReportsTheBudget, and the witness of the calls' other statements. -/
theorem witness_calls :
    (withItem .stopTone 6 booted).script[0]? = some .stopTone
      ∧ (withItem .stopTone 6 booted).schedule = List.replicate 6 .mainline ++ []
      ∧ (withItem .isActive 4 booted).script[0]? = some .isActive
      ∧ (withItem .isActive 4 booted).schedule = List.replicate 4 .mainline ++ []
      ∧ booted.params.wf = true ∧ booted.fault = none ∧ booted.refused = none ∧ booted.call = none
      ∧ booted.answer = none ∧ booted.capTaken = true
      ∧ (withItem .pinit 0 State.reset).script[0]? = some .pinit := by decide

/-- The run of the given agents from a state. -/
def runOf (σ : Nat → Agent) (s : State) : Nat → State
  | 0 => s
  | k + 1 =>
    match agentStep (σ k) (runOf σ s k) with
    | .next t => t
    | .fault _ => runOf σ s k
    | .refused _ => runOf σ s k

/-- The agents of the first `m` steps are enabled and answer a next state. -/
def runsFor (σ : Nat → Agent) (s : State) (m : Nat) : Bool :=
  (List.range m).all fun k => enabled (σ k) (runOf σ s k) && (nx (agentStep (σ k) (runOf σ s k))).isSome

theorem runTo_of_runsFor {σ : Nat → Agent} {s : State} {m : Nat} (h : runsFor σ s m = true) : RunTo (runOf σ s) σ m := by
  intro k hk
  have all := List.all_eq_true.mp h k (List.mem_range.mpr hk)
  simp only [Bool.and_eq_true] at all
  refine ⟨all.1, ?_⟩
  have answers := all.2
  simp only [runOf]
  cases e : agentStep (σ k) (runOf σ s k) with
  | next t => rfl
  | fault r => rw [e] at answers; cases answers
  | refused r => rw [e] at answers; cases answers

/-- A restart of a running tone: an Interrupt step falls between `GIER` and `GIEW 0`, a Timer step inside the critical
section before the registers are written, and another after `WR TIFR`. -/
def restartAgents : Nat → Agent
  | 1 => .interrupt
  | 4 => .timer
  | 12 => .timer
  | _ => .mainline

/-- The restart's first state: the old program's prescaler is two cycles short of a tick. -/
def restartStart : State :=
  withItem (.startTone 440 (.finite 2000)) 0 { requested with cs := 4, phase := 62, cnt := 141, budget := .finite 3 }

/-- The state that step `k` of the restart leaves. -/
def restartRun : Nat → State := runOf restartAgents restartStart

theorem witness_restart_positions :
    (List.range 15).map (fun k => (restartRun k).mpos) = List.replicate 14 0 ++ [1] := by decide

/-- StartTonePostconditionsUnderAnyInterleaving. -/
theorem witness_start_tone_interleaved :
    RunTo restartRun restartAgents 14 ∧ StateInv (restartRun 0) ∧ (restartRun 0).call = none
      ∧ (restartRun 0).script[(restartRun 0).mpos]? = some (.startTone 440 (.finite 2000))
      ∧ computeTimerProgram (restartRun 0).params.nDiv 440 (restartRun 0).params.clockHz = .ok ⟨3, 141⟩
      ∧ Duration.finite 2000 ≠ .finite 0 ∧ (restartRun 0).capTaken = true
      ∧ (∀ n b, computeToggleBudget 440 (.finite 2000) = .finite n → (restartRun 0).params.budgetMax = some b → n ≤ b)
      ∧ restartAgents 0 = .mainline
      ∧ (∀ k, k ≤ 13 → (restartRun k).mpos = (restartRun 0).mpos)
      ∧ (restartRun 14).mpos = (restartRun 0).mpos + 1 := by
  refine ⟨runTo_of_runsFor (by decide), ⟨by decide, by decide, by decide, by decide, by decide, by decide⟩, rfl,
    by decide, by decide, by decide, by decide, (fun _ _ _ h => nomatch h), rfl, by decide, by decide⟩

/-- The budgets at `BUDGET_MAX` and above it, and an indefinite one under a bound. -/
theorem witness_budget_bound :
    let p := { Params.default with budgetMax := some 1760 }
    budgetTooLarge p (computeToggleBudget 440 (.finite 2000)) = false
      ∧ budgetTooLarge p (computeToggleBudget 440 (.finite 2002)) = true
      ∧ budgetTooLarge p (computeToggleBudget 440 .indefinite) = false := by decide

/-- The same statement's last clause: the `WR TIFR` step, the match due after it, and the flag at the return. -/
theorem witness_fresh_match :
    callCommandNext (restartRun 10) (.wr .tifr 0x02) ∧ (restartRun 11).flag = false ∧ matchIsDue (restartRun 12)
      ∧ (restartRun 14).flag = true := by
  unfold callCommandNext matchIsDue; decide

/-- A script with a critical section nested in another, and a call inside the outer one. -/
def nestedStart : State :=
  { booted with gie := true, script := csEnterItems ++ csEnterItems ++ csExitItems ++ [.isActive] ++ csExitItems }

/-- ScriptCriticalSectionsRestoreGie: the outer section, and one item of each kind. -/
theorem witness_nested_sections :
    RunTo (runOf (fun _ => .mainline) nestedStart) (fun _ => .mainline) 10
      ∧ nestedStart.call = none ∧ nestedStart.script[0]? = some .saveGie
      ∧ (runOf (fun _ => .mainline) nestedStart 9).call = none
      ∧ (runOf (fun _ => .mainline) nestedStart 9).mpos = 6
      ∧ (runOf (fun _ => .mainline) nestedStart 9).script[6]? = some .restoreGie
      ∧ sectionDepth 0 ((nestedStart.script.take 6).drop 1) = some 0
      ∧ (runOf (fun _ => .mainline) nestedStart 9).held = [true]
      ∧ (withItem .restoreGie 0 State.reset).script[0]? = some .restoreGie
      ∧ (withItem .restoreGie 0 State.reset).held = [] := by
  refine ⟨runTo_of_runsFor (by decide), by decide⟩

/-- A state inside the critical section of `start_tone`, reached above, with the Timer's turn next. -/
def insideStartTone : State := { restartRun 7 with schedule := [.timer] }

/-- EveryStepKeepsTheInvariant, ResetMeetsTheInvariant, CriticalSectionExcludesTheHandler, CallsInProgressNeverStop. -/
theorem witness_invariant :
    StateInv insideStartTone ∧ (nx (step insideStartTone)).isSome = true ∧ insideStartTone.call.isSome = true
      ∧ insideStartTone.call.bind (·.ops.head?) = some (.cmd (.wr .tcmp 141)) ∧ Params.default.wf = true := by
  refine ⟨⟨by decide, by decide, by decide, by decide, by decide, fun c hc => ⟨by decide, ?_⟩⟩, by decide, by decide,
    by decide, by decide⟩
  have known : insideStartTone.call.all (callOk insideStartTone) = true := by decide
  rw [hc] at known
  exact known

/-- BudgetChangesOnlyInHandlerAndCalls, NothingIsUndone, OnlyTheTimerCounts: a handler step and a call's budget step that
change the budget. -/
theorem witness_budget_changes :
    (nx (agentStep .interrupt { requested with budget := .finite 3 })).map (·.budget) = some (.finite 2)
      ∧ (nx (agentStep .mainline
          { booted with call := some ⟨[.setBudget .indefinite, .restore], .started⟩, gie := false })).map (·.budget)
          = some .indefinite := by decide

/-- CompleteRunKeepsItsObservation: a run ended with the interrupt masked, and one with the timer stopped. -/
theorem witness_complete :
    complete { matching with ocie := false, gie := true } ∧ { matching with ocie := false }.wgm = 0b10
      ∧ complete { State.reset with gie := true, ocie := true } ∧ State.reset.cs = 0
      ∧ (nx (step { matching with ocie := false, schedule := [.timer] })).isSome = true := by
  unfold complete; decide

end Sys2Proof.Tests
end

/-! # The step, and what every step keeps (spec/00_scope.md R11, R12, R16, R30, R41, R73, R220, R255, R266)

The proofs go through one inversion lemma per agent: `mainlineStep_moves`, `timerStep_cases`, `interruptStep_cases`. -/

namespace Sys2Proof.Machine

/-! ## The step -/

theorem marked_eq_false_iff (s : State) : marked s = false ↔ s.fault = none ∧ s.refused = none := by
  simp [marked]

/-- A step that answers a next state begins where nothing has stopped the run (R250, R251). -/
theorem unmarked_of_step_next {s t : State} (h : step s = .next t) : marked s = false := by
  rw [marked_eq_false_iff]
  unfold step machineStep at h
  split at h
  · cases h
  · cases h
  · exact ⟨‹_›, ‹_›⟩

/-- R16: with parameters within R12, a step that nothing has stopped is one agent's. -/
theorem step_of_wf {s : State} (hm : marked s = false) (hwf : s.params.wf = true) :
    step s = agentStep (stepperOf s) (turnTaken s) := by
  obtain ⟨hf, hr⟩ := (marked_eq_false_iff s).mp hm
  simp [step, machineStep, hf, hr, hwf]

/-- R12, R255: with parameters outside R12, the first step is the refusal. -/
theorem step_of_not_wf {s : State} (hm : marked s = false) (hwf : s.params.wf = false) :
    step s = .next (refuse .badParameters s) := by
  obtain ⟨hf, hr⟩ := (marked_eq_false_iff s).mp hm
  simp [step, machineStep, hf, hr, hwf]

theorem turnOf_cons {s : State} {a : Agent} {rest : List Agent} (h : s.schedule = a :: rest) : turnOf s = a := by
  simp [turnOf, h]

theorem turnTaken_cons {s : State} {a : Agent} {rest : List Agent} (h : s.schedule = a :: rest) :
    turnTaken s = { s with schedule := rest } := by
  simp [turnTaken, h]

theorem stepperOf_of_enabled {s : State} (h : enabled (turnOf s) s = true) : stepperOf s = turnOf s := if_pos h

/-- R16, R266: an enabled agent whose turn is next takes the step. -/
theorem step_of_turn {s : State} {a : Agent} {rest : List Agent} (hwf : s.params.wf = true)
    (hs : s.schedule = a :: rest) (ha : enabled a s = true) : step s = agentStep a { s with schedule := rest } := by
  have hturn := turnOf_cons hs
  have hm : marked s = false := by
    simp only [enabled, Bool.and_eq_true, Bool.not_eq_true'] at ha
    exact ha.1
  rw [step_of_wf hm hwf, stepperOf_of_enabled (by rwa [hturn]), hturn, turnTaken_cons hs]

/-- R30: where an item is left, Mainline is enabled. -/
theorem enabled_mainline_of_item {s : State} {it : Item} (hm : marked s = false)
    (hit : s.script[s.mpos]? = some it) : enabled .mainline s = true := by
  obtain ⟨hlt, -⟩ := List.getElem?_eq_some_iff.mp hit
  simp [enabled, hm, mainlineReady, hlt]

theorem mainlineStep_item {s : State} {it : Item} (hc : s.call = none) (hit : s.script[s.mpos]? = some it) :
    mainlineStep s = itemStep it s := by
  simp [mainlineStep, hc, hit]

/-- R30, R31, R253: a word that decodes runs its command, and the item is complete unless the command was stopped. -/
theorem commandStep_of_decode {w : CmdWord} {i : Instr} {s t : State} (hd : decode w = .ok i)
    (he : exec i s = .next t) : commandStep w s = .next (if marked t then t else commandDone t) := by
  simp only [commandStep, hd, he, thenUnmarked_next]
  split <;> rfl

/-- Settles O13: the refusal is the first step's, and `refuse` records it where none stands. -/
theorem badInstanceIsRefused : Obligations.BadInstanceIsRefused := by
  intro s hwf hf hr
  rw [step_of_not_wf ((marked_eq_false_iff s).mpr ⟨hf, hr⟩) hwf]
  simp [refuse, hr]

/-- Settles O7: Mainline's turn is used, its item is the command word, and the word decodes. -/
theorem stepRunsTheDecodedCommand : Obligations.StepRunsTheDecodedCommand := by
  intro s t w i rest hf hr hwf hc hs hit hd he
  have hen := enabled_mainline_of_item ((marked_eq_false_iff s).mpr ⟨hf, hr⟩) hit
  calc step s = mainlineStep { s with schedule := rest } := step_of_turn hwf hs hen
    _ = commandStep w { s with schedule := rest } :=
        mainlineStep_item (s := { s with schedule := rest }) (it := .command w) hc hit
    _ = .next (if marked t then t else commandDone t) := commandStep_of_decode hd he

/-- Settles O10: the agent is the stepper, which is enabled where nothing has stopped the run. -/
theorem everyStepIsOneAgentsStep : Obligations.EveryStepIsOneAgentsStep := by
  intro s t hwf h
  have hm := unmarked_of_step_next h
  exact ⟨stepperOf s, stepperOf_enabled hm, by rw [← step_of_wf hm hwf, h]⟩


/-! ## The prescaler's divider -/

/-- The model's check of R12 as the library's chain relation. -/
theorem isChain_of_strictlyRising : ∀ {l : List Nat}, strictlyRising l = true → l.IsChain (· < ·)
  | [], _ => .nil
  | [_], _ => .singleton _
  | a :: b :: rest, h => by
    simp only [strictlyRising, Bool.and_eq_true, decide_eq_true_eq] at h
    exact .cons_cons h.1 (isChain_of_strictlyRising h.2)

/-- R12: every divider is positive. -/
theorem dividers_pos {p : Params} (hwf : p.wf = true) {d : Nat} (hd : d ∈ p.dividers) : 0 < d := by
  simp only [Params.wf, Bool.and_eq_true, decide_eq_true_eq] at hwf
  obtain ⟨⟨-, hhead⟩, hrise⟩ := hwf
  have hsorted := List.isChain_iff_pairwise.mp (isChain_of_strictlyRising hrise)
  cases hl : p.dividers with
  | nil => simp [hl] at hd
  | cons a rest =>
    rw [hl, List.pairwise_cons] at hsorted
    rw [hl] at hd hhead
    have ha : 1 ≤ a := hhead
    rcases List.mem_cons.mp hd with rfl | hmem
    · exact ha
    · exact Nat.zero_lt_of_lt (hsorted.1 d hmem)

theorem nDiv_bounds {p : Params} (hwf : p.wf = true) : 1 ≤ p.nDiv ∧ p.nDiv ≤ 7 := by
  simp only [Params.wf, Bool.and_eq_true, decide_eq_true_eq] at hwf
  omega

/-- R35: a select `1 ≤ CS ≤ N_DIV` names `DIVIDERS[CS-1]`. -/
theorem dividers_getElem?_select {p : Params} {k : BitVec 3} (hk : k ≠ 0) (hle : k.toNat ≤ p.nDiv) :
    p.dividers[k.toNat - 1]? = some (divider p k) := by
  have hpos : k.toNat ≠ 0 := fun h => hk (BitVec.eq_of_toNat_eq h)
  obtain ⟨n, hn⟩ := Nat.exists_eq_succ_of_ne_zero hpos
  have hlt : n < p.dividers.length := by unfold Params.nDiv at hle; omega
  simp [divider, hn, hlt]

theorem divider_pos {p : Params} {k : BitVec 3} (hwf : p.wf = true) (hk : k ≠ 0) (hle : k.toNat ≤ p.nDiv) :
    0 < divider p k :=
  dividers_pos hwf (List.mem_of_getElem? (dividers_getElem?_select hk hle))

/-! ## What a command can do -/

/-- How a command can end: stopped, with a prescaler selected, with some of the other registers or the pin written, with
`gie` written, or with a value handed over. -/
inductive ExecEnds (i : Instr) (s : State) : State → Prop where
  | stops (x : Stop) : ExecEnds i s (recordStop x s)
  | selects (k : BitVec 3) (hk : k.toNat ≤ s.params.nDiv) :
      ExecEnds i s { s with cs := k, phase := (selectPrescaler k s).phase, draws := (selectPrescaler k s).draws }
  | writes (wgm : BitVec 2) (ocr : Byte) (ocie flag pin : Bool) :
      ExecEnds i s { s with wgm := wgm, ocr := ocr, ocie := ocie, flag := flag, pin := pin }
  | enables (b : Bool) (hi : i = .giew b) : ExecEnds i s { s with gie := b }
  | answers (v : Byte) (hi : i = .prd ∨ i = .gier ∨ ∃ r, i = .rd r) : ExecEnds i s (handOver v s)

theorem regWrite_ends (i : Instr) {w : CmdWord} {r : Reg} {v : Byte} {s t : State}
    (h : settle s (regWrite w r v s) = .next t) : ExecEnds i s t := by
  rcases regWrite_cases w r v s with ⟨-, e⟩ | ⟨-, ⟨-, e⟩ | ⟨-, -, e⟩ | ⟨-, hk, e⟩ | ⟨-, e⟩ | ⟨-, e⟩ | ⟨-, e⟩⟩ <;>
    rw [e] at h
  · cases h; exact .stops _
  · cases h; exact .writes ..
  · cases h; exact .stops _
  · rw [selectPrescaler_frame] at h; cases h; exact .selects _ hk
  · cases h; exact .writes ..
  · cases h; exact .writes ..
  · cases h; exact .writes ..

theorem pinEffect_ends (i : Instr) {level : Bool} {s t : State} (h : settle s (pinEffect level s) = .next t) :
    ExecEnds i s t := by
  rcases pinEffect_cases level s with ⟨-, e⟩ | ⟨-, e⟩ <;> rw [e] at h <;> cases h
  · exact .writes ..
  · exact .stops _

theorem exec_ends {i : Instr} {s t : State} (h : exec i s = .next t) : ExecEnds i s t := by
  cases i with
  | wr r v => exact regWrite_ends _ h
  | setb r m => exact regWrite_ends _ h
  | clrb r m => exact regWrite_ends _ h
  | ptog => exact pinEffect_ends _ h
  | pset => exact pinEffect_ends _ h
  | pclr => exact pinEffect_ends _ h
  | rd r => cases h; exact .answers _ (.inr (.inr ⟨r, rfl⟩))
  | gier => cases h; exact .answers _ (.inr (.inl rfl))
  | giew b => cases h; exact .enables b rfl
  | prd =>
    simp only [exec, execPrd] at h
    split at h <;> cases h
    · exact .answers _ (.inl rfl)
    · exact .stops (.refusal .pinUnspecified)

/-! ## What an operation of Mainline can do -/

/-- R97, R220: `s <- GIER` makes `gie` the newest held value. -/
theorem saveGie_of_unmarked {s : State} (hm : marked s = false) :
    saveGie s = .next { s with answer := none, held := s.gie :: s.held } := by
  have he : exec .gier s = .next (handOver (bitByte s.gie) s) := rfl
  have hm' : marked (handOver (bitByte s.gie) s) = false := hm
  rw [saveGie, he, thenUnmarked_next, hm']
  cases hg : s.gie <;> simp [handOver, bitByte, hg]

/-- `s <- GIER` changes the answer and what is held, also in a stopped state. -/
theorem saveGie_cases {s t : State} (h : saveGie s = .next t) :
    ∃ (answer : Option Byte) (held : List Bool), t = { s with answer := answer, held := held } := by
  rcases thenUnmarked_cases h with ⟨he, -⟩ | ⟨u, he, -, hk⟩
  · cases he; exact ⟨_, _, rfl⟩
  · cases he; cases hk; exact ⟨_, _, rfl⟩

/-- R97, R220: `GIEW s` writes `gie` and takes one held value, or draws it where none is held. -/
theorem restoreGie_cases {s t : State} (h : restoreGie s = .next t) :
    ∃ (b : Bool) (held : List Bool) (draws : Nat), t = { s with gie := b, held := held, draws := draws } := by
  unfold restoreGie at h
  split at h <;> cases h <;> exact ⟨_, _, _, rfl⟩

/-- What no agent's step undoes, and the call in progress: unchanged by all that the agents do but the end of a Mainline
step. -/
structure KeepsProgram (s t : State) : Prop where
  params : t.params = s.params
  script : t.script = s.script
  mpos : t.mpos = s.mpos
  call : t.call = s.call
  capTaken : t.capTaken = s.capTaken
  fault : s.fault.isSome = true → t.fault = s.fault
  refused : s.refused.isSome = true → t.refused = s.refused

theorem keepsProgram_recordStop (x : Stop) (s : State) : KeepsProgram s (recordStop x s) := by
  cases x with
  | fault r =>
    refine ⟨rfl, rfl, rfl, rfl, rfl, fun hf => ?_, fun _ => rfl⟩
    obtain ⟨f, hf⟩ := Option.isSome_iff_exists.mp hf
    simp [hf]
  | refusal r =>
    refine ⟨rfl, rfl, rfl, rfl, rfl, fun _ => rfl, fun hr => ?_⟩
    obtain ⟨q, hr⟩ := Option.isSome_iff_exists.mp hr
    simp [hr]

theorem ExecEnds.keepsProgram {i : Instr} {s t : State} (h : ExecEnds i s t) : KeepsProgram s t := by
  cases h with
  | stops x => exact keepsProgram_recordStop x s
  | selects | writes | enables | answers => exact ⟨rfl, rfl, rfl, rfl, rfl, fun _ => rfl, fun _ => rfl⟩

theorem callOpStep_keepsProgram {op : CallOp} {s t : State} (h : callOpStep op s = .next t) : KeepsProgram s t := by
  cases op with
  | cmd i => exact (exec_ends h).keepsProgram
  | save =>
    obtain ⟨answer, held, rfl⟩ := saveGie_cases h
    exact ⟨rfl, rfl, rfl, rfl, rfl, fun _ => rfl, fun _ => rfl⟩
  | setBudget | readActive => cases h; exact ⟨rfl, rfl, rfl, rfl, rfl, fun _ => rfl, fun _ => rfl⟩
  | restore =>
    obtain ⟨b, held, draws, rfl⟩ := restoreGie_cases h
    exact ⟨rfl, rfl, rfl, rfl, rfl, fun _ => rfl, fun _ => rfl⟩

/-! ## What each agent's step can do -/

/-- The call `c` that a script item begins, where its checks pass (R222, R226, R228). -/
inductive Begins (s : State) : Item → Call → Prop where
  | startTone {f : Nat} {dur : Duration} {p : TimerProgram} {b : Budget} (hok : startToneChecks f dur s = .ok (p, b)) :
      Begins s (.startTone f dur) ⟨startToneOps p b, .started⟩
  | stopTone (hcap : s.capTaken = true) : Begins s .stopTone ⟨stopToneOps, .stopped⟩
  | isActive (hgate : (s.params.gateIsActive && !s.capTaken) = false) :
      Begins s .isActive ⟨isActiveOps, .active false⟩

/-- Mainline's step is one of the call `c`: in progress, or begun by this step. -/
def CallRuns (s : State) (c : Call) : Prop :=
  s.call = some c ∨ (s.call = none ∧ ∃ it, s.script[s.mpos]? = some it ∧ Begins s it c)

/-- Mainline's step is the operation `op`, and `finish` is what follows it where it is not stopped. -/
inductive MainlineOp (s : State) : CallOp → (State → State) → Prop where
  | command {w : CmdWord} {i : Instr} (hc : s.call = none) (hit : s.script[s.mpos]? = some (.command w))
      (hd : decode w = .ok i) : MainlineOp s (.cmd i) commandDone
  | saveItem (hc : s.call = none) (hit : s.script[s.mpos]? = some .saveGie) : MainlineOp s .save (itemDone none)
  | restoreItem (hc : s.call = none) (hit : s.script[s.mpos]? = some .restoreGie) :
      MainlineOp s .restore (itemDone none)
  | callOp {op : CallOp} {rest : List CallOp} {ret : Result} (hc : CallRuns s ⟨op :: rest, ret⟩) :
      MainlineOp s op (callContinue rest (retAfter op ret s))

/-- What a Mainline step can do: nothing where no item is left, an operation and what follows it, a check that stops the
item, `PINIT`, an error of `start_tone`, or the return of a call that has no step left. -/
inductive MainlineMoves (s : State) : State → Prop where
  | idle (hc : s.call = none) (hit : s.script[s.mpos]? = none) : MainlineMoves s s
  | operates {op : CallOp} {finish : State → State} {u : State} (hop : MainlineOp s op finish)
      (hu : callOpStep op s = .next u) : MainlineMoves s (if marked u then u else finish u)
  | stops {it : Item} (x : Stop) (hc : s.call = none) (hit : s.script[s.mpos]? = some it) :
      MainlineMoves s (recordStop x s)
  | pinit (hc : s.call = none) (hit : s.script[s.mpos]? = some .pinit) (hcap : s.capTaken = false) :
      MainlineMoves s (itemDone none { s with pin := false, capTaken := true })
  | startError {f : Nat} {dur : Duration} (e : ApiError) (hc : s.call = none)
      (hit : s.script[s.mpos]? = some (.startTone f dur)) (he : startToneChecks f dur s = .err e) :
      MainlineMoves s (itemDone (some (.startError e)) s)
  | returns {ret : Result} (hc : CallRuns s ⟨[], ret⟩) : MainlineMoves s (callReturn ret s)

theorem MainlineMoves.of_thenUnmarked {op : CallOp} {finish : State → State} {s t : State}
    (hop : MainlineOp s op finish) (h : thenUnmarked (callOpStep op s) (fun u => .next (finish u)) = .next t) :
    MainlineMoves s t := by
  obtain ⟨u, hu⟩ := callOpStep_answers op s
  rw [hu, thenUnmarked_next] at h
  have ht : t = if marked u then u else finish u := by split at h <;> cases h <;> simp [*]
  exact ht ▸ .operates hop hu

theorem callStep_moves {c : Call} {s t : State} (hc : CallRuns s c) (h : callStep c s = .next t) :
    MainlineMoves s t := by
  obtain ⟨ops, ret⟩ := c
  cases ops with
  | nil => cases h; exact .returns hc
  | cons op rest => exact .of_thenUnmarked (.callOp hc) h

theorem itemStep_moves {it : Item} {s t : State} (hc : s.call = none) (hit : s.script[s.mpos]? = some it)
    (h : itemStep it s = .next t) : MainlineMoves s t := by
  have begun {c : Call} (hb : Begins s it c) : CallRuns s c := .inr ⟨hc, it, hit, hb⟩
  cases it with
  | command w =>
    simp only [itemStep, commandStep] at h
    split at h
    · cases h; exact .stops (.fault _) hc hit
    · exact .of_thenUnmarked (op := .cmd _) (.command hc hit ‹_›) h
  | pinit =>
    simp only [itemStep, pinitStep] at h
    split at h <;> cases h
    · exact .stops (.refusal _) hc hit
    · exact .pinit hc hit (Bool.eq_false_of_not_eq_true ‹_›)
  | startTone f dur =>
    simp only [itemStep, startToneStep] at h
    split at h
    · cases h; exact .startError _ hc hit ‹_›
    · cases h; exact .stops (.refusal _) hc hit
    · exact callStep_moves (begun (.startTone ‹_›)) h
  | stopTone =>
    simp only [itemStep, stopToneStep] at h
    split at h
    · exact callStep_moves (begun (.stopTone ‹_›)) h
    · cases h; exact .stops (.refusal _) hc hit
  | isActive =>
    simp only [itemStep, isActiveStep] at h
    split at h
    · cases h; exact .stops (.refusal _) hc hit
    · exact callStep_moves (begun (.isActive (Bool.eq_false_of_not_eq_true ‹_›))) h
  | saveGie => exact .of_thenUnmarked (op := .save) (.saveItem hc hit) h
  | restoreGie => exact .of_thenUnmarked (op := .restore) (.restoreItem hc hit) h

theorem mainlineStep_moves {s t : State} (h : mainlineStep s = .next t) : MainlineMoves s t := by
  unfold mainlineStep at h
  split at h
  next c hc => exact callStep_moves (.inl hc) h
  next hc =>
    split at h
    · exact itemStep_moves hc ‹_› h
    · cases h; exact .idle hc ‹_›

/-- What a Timer step can do: nothing, a stop, a count of the prescaler, or a tick that ends its period. -/
theorem timerStep_cases {s t : State} (h : timerStep s = .next t) :
    (s.cs = 0 ∧ t = s) ∨ (∃ x, t = recordStop x s)
      ∨ (s.cs ≠ 0 ∧ s.phase + 1 ≠ divider s.params s.cs ∧ t = { s with phase := s.phase + 1 })
      ∨ (s.cs ≠ 0 ∧ s.phase + 1 = divider s.params s.cs
          ∧ ∃ cnt flag, t = { s with phase := 0, cnt := cnt, flag := flag }) := by
  simp only [timerStep, timerEffect] at h
  split at h
  · cases h; exact .inl ⟨‹_›, rfl⟩
  · split at h
    · simp only [timerTick] at h
      split at h
      · cases h; exact .inr (.inl ⟨.fault _, rfl⟩)
      · split at h <;> cases h <;> exact .inr (.inr (.inr ⟨‹_›, ‹_›, _, _, rfl⟩))
    · cases h; exact .inr (.inr (.inl ⟨‹_›, ‹_›, rfl⟩))

/-- R205, R301: the handler's `CLRB TIMSK, OCIE` masks the interrupt, and cannot fault. -/
theorem clearEffect_timsk_ocie (s : State) : clearEffect .timsk maskOCIE s = .ok { s with ocie := false } := by
  cases h : s.ocie <;> simp [clearEffect, regWrite, regRead, h, bit1Byte, clearBits, maskOCIE, reservedMask]

/-- What an Interrupt step can do: a stop, or the handler between its entry and exit. -/
theorem interruptStep_cases {s t : State} (h : interruptStep s = .next t) :
    (∃ x, t = recordStop x s)
      ∨ ∃ pin ocie budget, t = { s with flag := false, gie := true, pin := pin, ocie := ocie, budget := budget } := by
  simp only [interruptStep, handlerBody, handlerToggle, handlerTerminal, clearEffect_timsk_ocie, andThen_ok,
    pinEffect, interruptEntry_capTaken] at h
  cases hcap : s.capTaken with
  | false =>
    simp only [hcap] at h
    split at h <;> cases h <;> exact .inl ⟨.refusal .noCapability, rfl⟩
  | true =>
    simp only [hcap] at h
    split at h <;> cases h <;> exact .inr ⟨_, _, _, rfl⟩


/-! ## Nothing is undone -/

/-- What no agent's step undoes: the parameters and the script stay, the capability and a recorded stop are kept, and `mpos`
stays or advances by one. -/
structure Onward (s t : State) : Prop where
  params : t.params = s.params
  script : t.script = s.script
  capTaken : s.capTaken = true → t.capTaken = true
  fault : s.fault.isSome = true → t.fault = s.fault
  refused : s.refused.isSome = true → t.refused = s.refused
  mpos : t.mpos = s.mpos ∨ t.mpos = s.mpos + 1

theorem KeepsProgram.onward {s t : State} (h : KeepsProgram s t) : Onward s t :=
  ⟨h.params, h.script, fun hc => h.capTaken.trans hc, h.fault, h.refused, .inl h.mpos⟩

theorem KeepsProgram.trans_onward {s u t : State} (h : KeepsProgram s u) (h' : Onward u t) : Onward s t where
  params := h'.params.trans h.params
  script := h'.script.trans h.script
  capTaken hc := h'.capTaken (h.capTaken.trans hc)
  fault hf := (h'.fault (by rwa [h.fault hf])).trans (h.fault hf)
  refused hr := (h'.refused (by rwa [h.refused hr])).trans (h.refused hr)
  mpos := h.mpos ▸ h'.mpos

theorem onward_itemDone (r : Option Result) (s : State) : Onward s (itemDone r s) :=
  ⟨rfl, rfl, id, fun _ => rfl, fun _ => rfl, .inr rfl⟩

theorem onward_callContinue (rest : List CallOp) (ret : Result) (s : State) : Onward s (callContinue rest ret s) := by
  cases rest with
  | nil => exact ⟨rfl, rfl, id, fun _ => rfl, fun _ => rfl, .inr rfl⟩
  | cons op ops => exact ⟨rfl, rfl, id, fun _ => rfl, fun _ => rfl, .inl rfl⟩

theorem MainlineOp.finish_onward {s : State} {op : CallOp} {finish : State → State} (h : MainlineOp s op finish)
    (u : State) : Onward u (finish u) := by
  cases h with
  | command => exact ⟨rfl, rfl, id, fun _ => rfl, fun _ => rfl, .inr rfl⟩
  | saveItem | restoreItem => exact onward_itemDone none u
  | callOp => exact onward_callContinue _ _ u

theorem MainlineMoves.onward {s t : State} (h : MainlineMoves s t) : Onward s t := by
  cases h with
  | idle => exact ⟨rfl, rfl, id, fun _ => rfl, fun _ => rfl, .inl rfl⟩
  | operates hop hu =>
    have hkeeps := callOpStep_keepsProgram hu
    split
    · exact hkeeps.onward
    · exact hkeeps.trans_onward (hop.finish_onward _)
  | stops x => exact (keepsProgram_recordStop x s).onward
  | pinit => exact ⟨rfl, rfl, fun _ => rfl, fun _ => rfl, fun _ => rfl, .inr rfl⟩
  | startError e => exact onward_itemDone _ s
  | returns => exact ⟨rfl, rfl, id, fun _ => rfl, fun _ => rfl, .inr rfl⟩

theorem timerStep_keepsProgram {s t : State} (h : timerStep s = .next t) : KeepsProgram s t := by
  rcases timerStep_cases h with ⟨-, rfl⟩ | ⟨x, rfl⟩ | ⟨-, -, rfl⟩ | ⟨-, -, cnt, flag, rfl⟩
  case inr.inl => exact keepsProgram_recordStop x s
  all_goals exact ⟨rfl, rfl, rfl, rfl, rfl, fun _ => rfl, fun _ => rfl⟩

theorem interruptStep_keepsProgram {s t : State} (h : interruptStep s = .next t) : KeepsProgram s t := by
  rcases interruptStep_cases h with ⟨x, rfl⟩ | ⟨pin, ocie, budget, rfl⟩
  · exact keepsProgram_recordStop x s
  · exact ⟨rfl, rfl, rfl, rfl, rfl, fun _ => rfl, fun _ => rfl⟩

theorem agentStep_onward {a : Agent} {s t : State} (h : agentStep a s = .next t) : Onward s t := by
  cases a with
  | mainline => exact (mainlineStep_moves h).onward
  | timer => exact (timerStep_keepsProgram h).onward
  | interrupt => exact (interruptStep_keepsProgram h).onward

/-- Settles O57: each agent's step is onward. -/
theorem nothingIsUndone : Obligations.NothingIsUndone := by
  intro a s t h
  obtain ⟨hparams, hscript, hcap, hfault, hrefused, hmpos⟩ := agentStep_onward h
  exact ⟨hparams, hscript, hcap, hfault, hrefused, hmpos⟩

/-! ## The invariant: the timer's part -/

/-- The part of the invariant that speaks of the parameters and the timer (R12, R35, R41). -/
structure TimerInv (s : State) : Prop where
  instanceOk : s.params.wf = true
  selectOk : s.cs.toNat ≤ s.params.nDiv
  phaseOk : s.cs ≠ 0 → s.phase < divider s.params s.cs

theorem StateInv.timerInv {s : State} (h : StateInv s) : TimerInv s := ⟨h.instanceOk, h.selectOk, h.phaseOk⟩

theorem timerInv_recordStop {s : State} (x : Stop) (h : TimerInv s) : TimerInv (recordStop x s) := by
  rw [recordStop_frame]
  exact ⟨h.instanceOk, h.selectOk, h.phaseOk⟩

/-- R161: a select leaves `phase` below the divider it names. -/
theorem selectPrescaler_phase_lt {s : State} {k : BitVec 3} (h : TimerInv s) (hle : k.toNat ≤ s.params.nDiv)
    (hk : k ≠ 0) : (selectPrescaler k s).phase < divider s.params k := by
  unfold selectPrescaler
  split
  · exact drawBelow_lt _ (divider_pos h.instanceOk hk hle)
  next hsame =>
    obtain rfl : k = s.cs := by
      by_contra hne
      exact hsame ⟨hk, hne⟩
    exact h.phaseOk hk

theorem ExecEnds.timerInv {i : Instr} {s t : State} (he : ExecEnds i s t) (h : TimerInv s) : TimerInv t := by
  cases he with
  | stops x => exact timerInv_recordStop x h
  | selects k hk => exact ⟨h.instanceOk, hk, selectPrescaler_phase_lt h hk⟩
  | writes | enables | answers => exact ⟨h.instanceOk, h.selectOk, h.phaseOk⟩

theorem callOpStep_timerInv {op : CallOp} {s t : State} (ht : callOpStep op s = .next t) (h : TimerInv s) :
    TimerInv t := by
  cases op with
  | cmd i => exact (exec_ends ht).timerInv h
  | save =>
    obtain ⟨answer, held, rfl⟩ := saveGie_cases ht
    exact ⟨h.instanceOk, h.selectOk, h.phaseOk⟩
  | setBudget | readActive => cases ht; exact ⟨h.instanceOk, h.selectOk, h.phaseOk⟩
  | restore =>
    obtain ⟨b, held, draws, rfl⟩ := restoreGie_cases ht
    exact ⟨h.instanceOk, h.selectOk, h.phaseOk⟩

/-! ## The invariant: calls and their critical sections (R220) -/

theorem insideSection_append_csExit {p : Params} {cap : Bool} {body : List CallOp}
    (h : body.all (bodyOpOk p cap) = true) : insideSection p cap (body ++ csExit) = true := by
  induction body with
  | nil => rfl
  | cons op ops ih =>
    rw [List.all_cons, Bool.and_eq_true] at h
    simp [insideSection, h.1, ih h.2]

/-- Inside a critical section the next step is `CS_EXIT`, the last one, or a step of the body. -/
theorem insideSection_cons {p : Params} {cap : Bool} {op : CallOp} {rest : List CallOp}
    (h : insideSection p cap (op :: rest) = true) :
    (op = .restore ∧ rest = []) ∨ (bodyOpOk p cap op = true ∧ insideSection p cap rest = true) := by
  simpa [insideSection] using h

theorem callOk_iff (s : State) (ops : List CallOp) (ret : Result) :
    callOk s ⟨ops, ret⟩ = true ↔ s.held ≠ [] ∧
      ((∃ rest, ops = .cmd (.giew false) :: rest ∧ insideSection s.params s.capTaken rest = true)
        ∨ (insideSection s.params s.capTaken ops = true ∧ s.gie = false)) := by
  unfold callOk
  rw [Bool.and_eq_true]
  refine and_congr (by simp) ?_
  split
  next rest heq =>
    obtain rfl : ops = _ := heq
    simp [insideSection, bodyOpOk, bodyCommandOk]
  next hno =>
    rw [Bool.and_eq_true, Bool.not_eq_true']
    refine ⟨.inr, fun h => h.resolve_left ?_⟩
    rintro ⟨rest, rfl, -⟩
    exact hno rest rfl

theorem advancePrescaler_fst_le (left i ticks : Nat) : (advancePrescaler left i ticks).1 ≤ i + left := by
  induction left generalizing i ticks with
  | zero => exact le_rfl
  | succ left ih =>
    rw [advancePrescaler]
    split
    · exact (ih _ _).trans (by omega)
    · exact Nat.le_add_right ..

/-- R110, R111: the index the encoder answers names one of the dividers. -/
theorem prescalerIndex_lt {nDiv f c : Nat} {p : TimerProgram} (hn : 1 ≤ nDiv)
    (h : computeTimerProgram nDiv f c = .ok p) : p.prescalerIndex < nDiv := by
  simp only [computeTimerProgram] at h
  split at h
  · cases h
  · split at h
    · cases h
    · split at h <;> cases h
      have := advancePrescaler_fst_le (nDiv - 1) 0 (c / (2 * f) - 1)
      dsimp only
      omega

/-- R92, R143: `CS(i)` names one of at most 7 dividers, and sets no reserved bit of `TPRESC`. -/
theorem csValue_ok {i n : Nat} (hi : i < n) (hn : n ≤ 7) :
    csValue i &&& reservedMask .tpresc = 0 ∧ ((csValue i).extractLsb' 0 3).toNat ≤ n := by
  have hlt : i < 7 := by omega
  constructor
  · unfold csValue reservedMask
    interval_cases i <;> decide
  · simp only [csValue, BitVec.extractLsb'_toNat, BitVec.toNat_ofNat, Nat.shiftRight_zero]
    omega

theorem startToneBody_ok {params : Params} {p : TimerProgram} (b : Budget) (hwf : params.wf = true)
    (hp : p.prescalerIndex < params.nDiv) : (startToneBody p b).all (bodyOpOk params true) = true := by
  simpa [startToneBody, opDisableIrq, opForceLow, opConfigure, opArm, opClearPending, opEnableIrq, bodyOpOk,
    bodyCommandOk, reservedMask, maskCTC, maskOCF, maskOCIE] using csValue_ok hp (nDiv_bounds hwf).2

/-- R220, R223, R226, R228: a call that a script item begins is `CS_ENTER`, steps of a body, and `CS_EXIT`. -/
theorem Begins.shape {s : State} {it : Item} {c : Call} (hb : Begins s it c) (hwf : s.params.wf = true) :
    ∃ body, c.ops = csEnter ++ body ++ csExit ∧ body.all (bodyOpOk s.params s.capTaken) = true := by
  cases hb with
  | @startTone f dur p b hok =>
    obtain ⟨hp, -, hcap, -, -⟩ := (startToneChecks_eq_ok_iff ..).mp hok
    rw [hcap]
    exact ⟨_, rfl, startToneBody_ok b hwf (prescalerIndex_lt (nDiv_bounds hwf).1 hp)⟩
  | stopTone hcap =>
    rw [hcap]
    exact ⟨stopToneBody, rfl, rfl⟩
  | isActive => exact ⟨[.readActive], rfl, rfl⟩

/-- A step of a body leaves `gie`, what is held, and the answer. -/
theorem bodyOp_keeps {p : Params} {cap : Bool} {op : CallOp} {s t : State} (hok : bodyOpOk p cap op = true)
    (h : callOpStep op s = .next t) : t.gie = s.gie ∧ t.held = s.held ∧ t.answer = s.answer := by
  cases op with
  | save | restore => cases hok
  | setBudget | readActive => cases h; exact ⟨rfl, rfl, rfl⟩
  | cmd i =>
    cases exec_ends h with
    | stops x => rw [recordStop_frame]; exact ⟨rfl, rfl, rfl⟩
    | selects | writes => exact ⟨rfl, rfl, rfl⟩
    | enables b hi => subst hi; cases hok
    | answers v hi => rcases hi with rfl | rfl | ⟨r, rfl⟩ <;> cases hok

/-! ## Every step keeps the invariant -/

theorem stateInv_recordStop {s : State} (x : Stop) (h : StateInv s) : StateInv (recordStop x s) := by
  rw [recordStop_frame]
  exact ⟨h.instanceOk, h.selectOk, h.phaseOk, h.positionOk, h.answerTaken, h.callInScript⟩

theorem stateInv_turnTaken {s : State} (h : StateInv s) : StateInv (turnTaken s) := by
  unfold turnTaken
  split <;> exact ⟨h.instanceOk, h.selectOk, h.phaseOk, h.positionOk, h.answerTaken, h.callInScript⟩

/-- The end of an item meets the invariant, where it stood in the script and has left no answer and no call. -/
theorem stateInv_itemDone {s : State} (r : Option Result) (htimer : TimerInv s) (hpos : s.mpos < s.script.length)
    (hanswer : s.answer = none) (hcall : s.call = none) : StateInv (itemDone r s) where
  instanceOk := htimer.instanceOk
  selectOk := htimer.selectOk
  phaseOk := htimer.phaseOk
  positionOk := hpos
  answerTaken := hanswer
  callInScript c hc := by simp [hcall] at hc

/-- A call goes on with the steps that are left, where they keep its critical section. -/
theorem stateInv_callContinue {s : State} {ops : List CallOp} {ret : Result} (htimer : TimerInv s)
    (hpos : s.mpos < s.script.length) (hanswer : s.answer = none) (hok : callOk s ⟨ops, ret⟩ = true) :
    StateInv (callContinue ops ret s) := by
  cases ops with
  | nil => simp [callOk_iff, insideSection] at hok
  | cons op rest =>
    refine ⟨htimer.instanceOk, htimer.selectOk, htimer.phaseOk, hpos.le, hanswer, fun c hc => ?_⟩
    cases hc
    exact ⟨hpos, hok⟩

/-- R220: the first step of a call leaves it with its `s` held and its `GIEW 0` next. -/
theorem Begins.callOk_of_first_step {s u : State} {it : Item} {op : CallOp} {rest : List CallOp} {ret : Result}
    (hb : Begins s it ⟨op :: rest, ret⟩) (hwf : s.params.wf = true) (hm : marked s = false)
    (hu : callOpStep op s = .next u) (ret' : Result) : u.answer = none ∧ callOk u ⟨rest, ret'⟩ = true := by
  obtain ⟨body, hops, hbody⟩ := hb.shape hwf
  obtain ⟨rfl, rfl⟩ := List.cons.inj hops
  rw [callOpStep, saveGie_of_unmarked hm] at hu
  cases hu
  exact ⟨rfl, (callOk_iff ..).mpr ⟨List.cons_ne_nil s.gie s.held, .inl ⟨_, rfl, insideSection_append_csExit hbody⟩⟩⟩

/-- R220: a step of a call in progress keeps its critical section, or is its last. -/
theorem callOk_of_later_step {s u : State} {op : CallOp} {rest : List CallOp} {ret : Result}
    (hok : callOk s ⟨op :: rest, ret⟩ = true) (hu : callOpStep op s = .next u) (ret' : Result) :
    u.answer = s.answer ∧ (rest = [] ∨ callOk u ⟨rest, ret'⟩ = true) := by
  have hkeeps := callOpStep_keepsProgram hu
  rw [callOk_iff] at hok ⊢
  rw [hkeeps.params, hkeeps.capTaken]
  obtain ⟨hheld, ⟨rest', hcons, hinside⟩ | ⟨hinside, hgie⟩⟩ := hok
  · obtain ⟨rfl, rfl⟩ := List.cons.inj hcons
    cases hu
    exact ⟨rfl, .inr ⟨hheld, .inr ⟨hinside, rfl⟩⟩⟩
  · rcases insideSection_cons hinside with ⟨rfl, rfl⟩ | ⟨hbody, hrest⟩
    · obtain ⟨b, held, draws, rfl⟩ := restoreGie_cases hu
      exact ⟨rfl, .inl rfl⟩
    · obtain ⟨hgie', hheld', hanswer⟩ := bodyOp_keeps hbody hu
      exact ⟨hanswer, .inr ⟨hheld' ▸ hheld, .inr ⟨hrest, hgie'.trans hgie⟩⟩⟩

/-- Where nothing has stopped the run, an operation that leaves a mark has done nothing else. -/
theorem callOpStep_stops_of_marked {op : CallOp} {s u : State} (hm : marked s = false) (hu : callOpStep op s = .next u)
    (hmu : marked u = true) : ∃ x, u = recordStop x s := by
  have contra (h : marked u = marked s) : ∃ x, u = recordStop x s := by simp [h, hm] at hmu
  cases op with
  | cmd i =>
    cases exec_ends hu with
    | stops x => exact ⟨x, rfl⟩
    | selects | writes | enables | answers => exact contra rfl
  | save => obtain ⟨answer, held, rfl⟩ := saveGie_cases hu; exact contra rfl
  | setBudget | readActive => cases hu; exact contra rfl
  | restore => obtain ⟨b, held, draws, rfl⟩ := restoreGie_cases hu; exact contra rfl

theorem CallRuns.mpos_lt {s : State} {c : Call} (h : StateInv s) (hc : CallRuns s c) : s.mpos < s.script.length := by
  rcases hc with hc | ⟨-, it, hit, -⟩
  · exact (h.callInScript c hc).1
  · exact (List.getElem?_eq_some_iff.mp hit).1

theorem MainlineOp.finish_stateInv {op : CallOp} {finish : State → State} {s u : State} (h : StateInv s)
    (hm : marked s = false) (hop : MainlineOp s op finish) (hu : callOpStep op s = .next u) :
    StateInv (finish u) := by
  have htimer := callOpStep_timerInv hu h.timerInv
  have hkeeps := callOpStep_keepsProgram hu
  have inScript (hlt : s.mpos < s.script.length) : u.mpos < u.script.length := by rwa [hkeeps.mpos, hkeeps.script]
  have atItem {it : Item} (hit : s.script[s.mpos]? = some it) : u.mpos < u.script.length :=
    inScript (List.getElem?_eq_some_iff.mp hit).1
  cases hop with
  | command hc hit hd =>
    exact stateInv_itemDone _ ⟨htimer.instanceOk, htimer.selectOk, htimer.phaseOk⟩ (atItem hit) rfl
      (hkeeps.call.trans hc)
  | saveItem hc hit =>
    have hanswer : u.answer = none := by rw [callOpStep, saveGie_of_unmarked hm] at hu; cases hu; rfl
    exact stateInv_itemDone _ htimer (atItem hit) hanswer (hkeeps.call.trans hc)
  | restoreItem hc hit =>
    have hanswer : u.answer = none := by obtain ⟨b, held, draws, rfl⟩ := restoreGie_cases hu; exact h.answerTaken
    exact stateInv_itemDone _ htimer (atItem hit) hanswer (hkeeps.call.trans hc)
  | @callOp op rest ret hc =>
    have hpos := inScript (hc.mpos_lt h)
    rcases hc with hc | ⟨-, it, -, hb⟩
    · obtain ⟨hanswer, rfl | hok⟩ := callOk_of_later_step (h.callInScript _ hc).2 hu (retAfter op ret s)
      · exact stateInv_itemDone _ ⟨htimer.instanceOk, htimer.selectOk, htimer.phaseOk⟩ hpos
          (hanswer.trans h.answerTaken) rfl
      · exact stateInv_callContinue htimer hpos (hanswer.trans h.answerTaken) hok
    · obtain ⟨hanswer, hok⟩ := hb.callOk_of_first_step h.instanceOk hm hu (retAfter op ret s)
      exact stateInv_callContinue htimer hpos hanswer hok

theorem MainlineMoves.stateInv {s t : State} (h : StateInv s) (hm : marked s = false) (ht : MainlineMoves s t) :
    StateInv t := by
  cases ht with
  | idle => exact h
  | @operates op finish u hop hu =>
    split
    next hmu =>
      obtain ⟨x, rfl⟩ := callOpStep_stops_of_marked hm hu hmu
      exact stateInv_recordStop x h
    next => exact hop.finish_stateInv h hm hu
  | stops x => exact stateInv_recordStop x h
  | pinit hc hit =>
    have hpos := (List.getElem?_eq_some_iff.mp hit).1
    exact stateInv_itemDone _ ⟨h.instanceOk, h.selectOk, h.phaseOk⟩ hpos h.answerTaken hc
  | startError e hc hit =>
    exact stateInv_itemDone _ h.timerInv (List.getElem?_eq_some_iff.mp hit).1 h.answerTaken hc
  | returns hc =>
    have hpos := hc.mpos_lt h
    exact stateInv_itemDone _ ⟨h.instanceOk, h.selectOk, h.phaseOk⟩ hpos h.answerTaken rfl

theorem timerStep_stateInv {s t : State} (h : StateInv s) (ht : timerStep s = .next t) : StateInv t := by
  rcases timerStep_cases ht with ⟨-, rfl⟩ | ⟨x, rfl⟩ | ⟨hcs, hne, rfl⟩ | ⟨hcs, hd, cnt, flag, rfl⟩
  · exact h
  · exact stateInv_recordStop x h
  · have hlt : s.phase + 1 < divider s.params s.cs := Nat.lt_of_le_of_ne (h.phaseOk hcs) hne
    exact ⟨h.instanceOk, h.selectOk, fun _ => hlt, h.positionOk, h.answerTaken, h.callInScript⟩
  · have hlt : 0 < divider s.params s.cs := hd ▸ Nat.succ_pos _
    exact ⟨h.instanceOk, h.selectOk, fun _ => hlt, h.positionOk, h.answerTaken, h.callInScript⟩

/-- The handler's exit writes the `gie = 1` that its request had, so it stays out of every critical section (R261,
R264). -/
theorem interruptStep_stateInv {s t : State} (h : StateInv s) (hirq : irqRequest s = true)
    (ht : interruptStep s = .next t) : StateInv t := by
  have hgie : true = s.gie := by
    simp only [irqRequest, Bool.and_eq_true] at hirq
    exact hirq.2.symm
  rcases interruptStep_cases ht with ⟨x, rfl⟩ | ⟨pin, ocie, budget, rfl⟩
  · exact stateInv_recordStop x h
  · rw [hgie]
    exact ⟨h.instanceOk, h.selectOk, h.phaseOk, h.positionOk, h.answerTaken, h.callInScript⟩

theorem agentStep_stateInv {a : Agent} {s t : State} (h : StateInv s) (hen : enabled a s = true)
    (ht : agentStep a s = .next t) : StateInv t := by
  simp only [enabled, Bool.and_eq_true, Bool.not_eq_true'] at hen
  obtain ⟨hm, hready⟩ := hen
  cases a with
  | mainline => exact (mainlineStep_moves ht).stateInv h hm
  | timer => exact timerStep_stateInv h ht
  | interrupt => exact interruptStep_stateInv h hready ht

/-- Settles O51: the step is an enabled agent's, and using the turn touches nothing the invariant speaks of. -/
theorem everyStepKeepsTheInvariant : Obligations.EveryStepKeepsTheInvariant := by
  intro s t h ht
  obtain ⟨a, hen, ha⟩ := everyStepIsOneAgentsStep s t h.instanceOk ht
  exact agentStep_stateInv (stateInv_turnTaken h) (by rwa [enabled_turnTaken]) ha

end Sys2Proof.Machine

/-! # The state: its registers, its reset, and what the agents leave of it
(spec/10_state.md R32 to R51, spec/20_memory.md R60, R61)

A command's frame (`exec_frame`) and each agent's lemmas on the counter and the budget carry the statements on what
stays. -/

namespace Sys2Proof.Machine

/-! ## What a command leaves of the state -/

/-- A command writes at most the registers, the flag, `phase`, `gie`, the pin, the answer, the draws and the marks. -/
theorem exec_frame {i : Instr} {s t : State} (h : exec i s = .next t) :
    t = { s with
      wgm := t.wgm, cs := t.cs, ocr := t.ocr, ocie := t.ocie, flag := t.flag, phase := t.phase, gie := t.gie,
      pin := t.pin, answer := t.answer, draws := t.draws, fault := t.fault, refused := t.refused } := by
  cases exec_ends h with
  | stops x => cases x <;> rfl
  | selects | writes | enables | answers => rfl

theorem exec_cnt {i : Instr} {s t : State} (h : exec i s = .next t) : t.cnt = s.cnt := by rw [exec_frame h]

theorem exec_budget {i : Instr} {s t : State} (h : exec i s = .next t) : t.budget = s.budget := by rw [exec_frame h]

/-- Settles O27: it is the frame of every command. -/
theorem commandsLeaveTheHiddenState : Obligations.CommandsLeaveTheHiddenState := fun _ _ _ => exec_frame

@[simp] theorem regRead_recordStop (r : Reg) (x : Stop) (s : State) : regRead r (recordStop x s) = regRead r s := by
  cases x <;> rfl

/-- A prescaler select is seen in `TPRESC` alone. -/
theorem regRead_selectPrescaler {r : Reg} (hr : r ≠ .tpresc) (k : BitVec 3) (s : State) :
    regRead r (selectPrescaler k s) = regRead r s := by
  rw [selectPrescaler_frame]
  cases r with
  | tpresc => exact absurd rfl hr
  | tmode | tcmp | timsk | tifr => rfl

/-- R32: a register write is seen in its own register alone. -/
theorem regRead_of_regWrite {w : CmdWord} {r r' : Reg} {v : Byte} {s t : State} (hr : r ≠ r')
    (h : settle s (regWrite w r v s) = .next t) : regRead r' t = regRead r' s := by
  rcases (settle_next_iff ..).mp h with hok | ⟨x, -, rfl⟩
  · rcases regWrite_cases w r v s with
      ⟨-, e⟩ | ⟨-, ⟨rfl, e⟩ | ⟨-, -, e⟩ | ⟨rfl, -, e⟩ | ⟨rfl, e⟩ | ⟨rfl, e⟩ | ⟨rfl, e⟩⟩ <;>
      rw [e] at hok <;> cases hok
    on_goal 2 => exact regRead_selectPrescaler hr.symm _ s
    all_goals cases r' <;> simp [regRead] at hr ⊢
  · exact regRead_recordStop r' x s

/-- Settles O19: each of the three commands ends in a register write. -/
theorem registersAreIndependentlyWritable : Obligations.RegistersAreIndependentlyWritable := by
  rintro r r' v s t hr (h | h | h) <;> exact regRead_of_regWrite hr h

/-! ## The counter and the budget -/

/-- R60, R75: an operation of Mainline leaves `cnt`, and the budget unless it is `budget <- b`. -/
theorem callOpStep_cnt_budget {op : CallOp} {s t : State} (h : callOpStep op s = .next t) :
    t.cnt = s.cnt ∧ (t.budget = s.budget ∨ op = .setBudget t.budget) := by
  cases op with
  | cmd i => exact ⟨exec_cnt h, .inl (exec_budget h)⟩
  | save => obtain ⟨answer, held, rfl⟩ := saveGie_cases h; exact ⟨rfl, .inl rfl⟩
  | setBudget b => cases h; exact ⟨rfl, .inr rfl⟩
  | readActive => cases h; exact ⟨rfl, .inl rfl⟩
  | restore => obtain ⟨b, held, draws, rfl⟩ := restoreGie_cases h; exact ⟨rfl, .inl rfl⟩

theorem MainlineOp.finish_cnt_budget {s : State} {op : CallOp} {finish : State → State} (h : MainlineOp s op finish)
    (u : State) : (finish u).cnt = u.cnt ∧ (finish u).budget = u.budget := by
  cases h with
  | command | saveItem | restoreItem => exact ⟨rfl, rfl⟩
  | @callOp _ rest => cases rest <;> exact ⟨rfl, rfl⟩

/-- R220: the step that begins a call is `s <- GIER`. -/
theorem Begins.head? {s : State} {it : Item} {c : Call} (h : Begins s it c) : c.ops.head? = some .save := by
  cases h <;> rfl

/-- `budget <- b` is a step of a call in progress. -/
theorem MainlineOp.call_of_setBudget {s : State} {b : Budget} {finish : State → State}
    (h : MainlineOp s (.setBudget b) finish) : ∃ c, s.call = some c ∧ c.ops.head? = some (.setBudget b) := by
  cases h with
  | callOp hc =>
    rcases hc with hcall | ⟨-, it, -, hb⟩
    · exact ⟨_, hcall, rfl⟩
    · cases hb.head?

/-- R46, R60, R75: a Mainline step leaves `cnt`, and the budget unless it is a call's own budget step. -/
theorem mainlineStep_cnt_budget {s t : State} (h : mainlineStep s = .next t) :
    t.cnt = s.cnt ∧ (t.budget = s.budget ∨ ∃ c, s.call = some c ∧ c.ops.head? = some (.setBudget t.budget)) := by
  cases mainlineStep_moves h with
  | idle | pinit | startError | returns => exact ⟨rfl, .inl rfl⟩
  | stops x => rw [recordStop_frame]; exact ⟨rfl, .inl rfl⟩
  | @operates op finish u hop hu =>
    obtain ⟨hcnt, hbudget⟩ := hop.finish_cnt_budget u
    have hcnt' : (if marked u then u else finish u).cnt = u.cnt := by split <;> simp [hcnt]
    have hbudget' : (if marked u then u else finish u).budget = u.budget := by split <;> simp [hbudget]
    rw [hcnt', hbudget']
    obtain ⟨hucnt, hubudget⟩ := callOpStep_cnt_budget hu
    exact ⟨hucnt, hubudget.imp_right fun hset => (hset ▸ hop).call_of_setBudget⟩

/-- R160, R163: a system clock cycle leaves all but `cnt`, `phase` and `flag`, or is a tick that faults. -/
theorem timerEffect_cases (s : State) :
    timerEffect s = .error (.fault (.unmodelledMode s.wgm))
      ∨ ∃ cnt phase flag, timerEffect s = .ok { s with cnt := cnt, phase := phase, flag := flag } := by
  unfold timerEffect timerTick
  split
  · exact .inr ⟨_, _, _, rfl⟩
  · split
    · split
      · exact .inl rfl
      · split <;> exact .inr ⟨_, _, _, rfl⟩
    · exact .inr ⟨_, _, _, rfl⟩

/-- R40, R45, R164: a Timer step changes at most `cnt`, `phase`, `flag` and the fault mark. -/
theorem timerStep_frame {s t : State} (h : timerStep s = .next t) :
    t = { s with cnt := t.cnt, phase := t.phase, flag := t.flag, fault := t.fault } := by
  rcases timerEffect_cases s with e | ⟨cnt, phase, flag, e⟩ <;> rw [timerStep, e] at h <;> cases h <;> rfl

theorem andThen_eq_ok {e : Effect} {f : State → Effect} {t : State} (h : e.andThen f = .ok t) :
    ∃ u, e = .ok u ∧ f u = .ok t := by
  cases e with
  | ok u => exact ⟨u, rfl, h⟩
  | error x => cases h

theorem pinEffect_budget {level : Bool} {s t : State} (h : pinEffect level s = .ok t) : t.budget = s.budget := by
  rcases pinEffect_cases level s with ⟨-, e⟩ | ⟨-, e⟩ <;> rw [e] at h <;> cases h
  rfl

/-- R203 to R205: the handler's body leaves the budget, or takes one from it. -/
theorem handlerBody_budget {s t : State} (h : handlerBody s = .ok t) :
    t.budget = s.budget ∨ ∃ n, s.budget = .finite (n + 1) ∧ t.budget = .finite n := by
  unfold handlerBody at h
  split at h
  · exact .inl (pinEffect_budget h)
  next n hbudget =>
    obtain ⟨u, -, hu⟩ := andThen_eq_ok h
    cases hu
    exact .inr ⟨n, hbudget, rfl⟩
  · rw [handlerTerminal, clearEffect_timsk_ocie, andThen_ok] at h
    have hmasked := pinEffect_budget h
    exact .inl hmasked

/-- R46, R200: an Interrupt step leaves the budget, or takes one from it. -/
theorem interruptStep_budget {s t : State} (h : interruptStep s = .next t) :
    t.budget = s.budget ∨ ∃ n, s.budget = .finite (n + 1) ∧ t.budget = .finite n := by
  rcases (settle_next_iff ..).mp h with hok | ⟨x, -, rfl⟩
  · obtain ⟨u, hbody, hu⟩ := andThen_eq_ok hok
    have hentry := handlerBody_budget hbody
    cases hu
    exact hentry
  · rw [recordStop_frame]; exact .inl rfl

theorem interruptStep_cnt {s t : State} (h : interruptStep s = .next t) : t.cnt = s.cnt := by
  rcases interruptStep_cases h with ⟨x, rfl⟩ | ⟨pin, ocie, budget, rfl⟩
  · rw [recordStop_frame]
  · rfl

/-- Settles O56: of the agents, the Timer leaves the budget, and the other two change it as their lemmas say. -/
theorem budgetChangesOnlyInHandlerAndCalls : Obligations.BudgetChangesOnlyInHandlerAndCalls := by
  intro a s t h hne
  cases a with
  | mainline => exact .inr ⟨rfl, (mainlineStep_cnt_budget h).2.resolve_left hne⟩
  | timer => exact absurd (by rw [timerStep_frame h]) hne
  | interrupt => exact .inl ⟨rfl, (interruptStep_budget h).resolve_left hne⟩

/-- Settles O58: the other two agents leave `cnt`, and the Timer's step has the frame. -/
theorem onlyTheTimerCounts : Obligations.OnlyTheTimerCounts := by
  intro a s t h
  cases a with
  | mainline => exact ⟨fun _ => (mainlineStep_cnt_budget h).1, nofun⟩
  | timer => exact ⟨fun hne => absurd rfl hne, fun _ => timerStep_frame h⟩
  | interrupt => exact ⟨fun _ => interruptStep_cnt h, nofun⟩

/-! ## The enabling conditions and the prescaler -/

theorem irqRequest_iff (s : State) : irqRequest s = true ↔ s.flag = true ∧ s.ocie = true ∧ s.gie = true := by
  simp [irqRequest, and_assoc]

/-- Settles O12: the Interrupt needs its request and no mark, the Timer no mark. -/
theorem enablingConditions : Obligations.EnablingConditions := by
  intro s
  constructor
  · calc enabled .interrupt s = true
      _ ↔ marked s = false ∧ irqRequest s = true := by simp [enabled]
      _ ↔ _ := by rw [marked_eq_false_iff, irqRequest_iff]; tauto
  · calc enabled .timer s = true
      _ ↔ marked s = false := by simp [enabled]
      _ ↔ _ := marked_eq_false_iff s

/-- Settles O18: the select's divider is positive, so a draw is below it. -/
theorem drawnPhaseIsBelowTheDivider : Obligations.DrawnPhaseIsBelowTheDivider := by
  intro p k n hwf hk hle
  exact ⟨dividers_getElem?_select hk hle, drawBelow_lt n (divider_pos hwf hk hle)⟩

/-! ## The registers on the bus (spec/20_memory.md R60, R61) -/

/-- In the timer window the access is decided by the register number. -/
theorem registerAt_window (w : CmdWord) (p : Params) {n : Nat} (hn : n < 16) :
    registerAt w p (p.timerBase + n)
      = some ((regOfNumber (BitVec.ofNat 4 n)).elim (.error (.reservedRegister w)) .ok) := by
  unfold registerAt
  rw [if_pos (by omega), Nat.add_sub_cancel_left]
  cases regOfNumber (BitVec.ofNat 4 n) <;> rfl

theorem registerAt_numberOfReg (w : CmdWord) (p : Params) (r : Reg) :
    registerAt w p (p.timerBase + (numberOfReg r).toNat) = some (.ok r) := by
  rw [registerAt_window w p (numberOfReg r).isLt, BitVec.ofNat_toNat, BitVec.setWidth_eq, regOfNumber_numberOfReg]
  rfl

theorem registerAt_outside (w : CmdWord) {p : Params} {a : Nat} (ha : a < p.timerBase ∨ p.timerBase + 16 ≤ a) :
    registerAt w p a = none := if_neg (by omega)

/-- R82: the numbers 2 and 6 to 15 name no register. -/
theorem regOfNumber_reserved {n : Nat} (hn : n = 2 ∨ (6 ≤ n ∧ n ≤ 15)) : regOfNumber (BitVec.ofNat 4 n) = none := by
  rcases hn with rfl | ⟨hlo, hhi⟩
  · rfl
  · interval_cases n <;> rfl

theorem registerAt_reserved (w : CmdWord) (p : Params) {n : Nat} (hn : n = 2 ∨ (6 ≤ n ∧ n ≤ 15)) :
    registerAt w p (p.timerBase + n) = some (.error (.reservedRegister w)) := by
  rw [registerAt_window w p (by omega), regOfNumber_reserved hn]
  rfl

/-- Settles O22: both accesses follow what stands at the address. -/
theorem registersStandAtTheirAddresses : Obligations.RegistersStandAtTheirAddresses := by
  intro w v s
  refine ⟨fun r => ?_, fun n hn => ?_, fun a ha => ?_⟩ <;> unfold memRead memWrite
  · rw [registerAt_numberOfReg]; exact ⟨rfl, rfl⟩
  · rw [registerAt_reserved w s.params hn]; exact ⟨rfl, rfl⟩
  · rw [registerAt_outside w ha]; exact ⟨rfl, rfl⟩

/-! ## Before `PINIT`, and after reset -/

/-- Settles O50: the check of the capability is the call's first step, and `refuse` records it where no mark stands. -/
theorem stopToneBeforePinitIsRefused : Obligations.StopToneBeforePinitIsRefused := by
  intro s hc hcap hr hit
  rw [mainlineStep_item hc hit]
  simp [itemStep, stopToneStep, hcap, refuse, hr]

/-- Settles O52: at reset the timer is stopped, `mpos` is 0 and no call is in progress. -/
theorem resetMeetsTheInvariant : Obligations.ResetMeetsTheInvariant := by
  intro p script schedule hwf
  exact ⟨hwf, Nat.zero_le _, fun hcs => absurd rfl hcs, Nat.zero_le _, rfl, nofun⟩

/-- Settles O53: each is the value the reset state is built with, and a register of zeros reads 0. -/
theorem resetValues : Obligations.ResetValues := by
  intro p
  exact ⟨rfl, rfl, rfl, rfl, rfl, rfl, rfl, rfl, rfl, rfl, rfl, rfl, rfl⟩

end Sys2Proof.Machine

/-! # The accesses: repeated commands and the critical section (spec/20_memory.md R67, R71)

`WR`, `SETB` and `CLRB` write back their register's byte with some bits kept and some set, the form `written` gives once
for all three. -/

namespace Sys2Proof.Machine

/-! ## Repeating an effect -/

theorem recordStop_recordStop (x : Stop) (s : State) : recordStop x (recordStop x s) = recordStop x s := by
  cases x with
  | fault r => cases h : s.fault <;> simp [raiseFault, h]
  | refusal r => cases h : s.refused <;> simp [refuse, h]

/-- Settling an effect twice is settling it once, where its result and its stop repeat themselves. -/
theorem settle_repeated {e : State → Effect} {s t : State} (h : settle s (e s) = .next t)
    (hok : e s = .ok t → e t = .ok t) (hstop : ∀ x, e s = .error x → e (recordStop x s) = .error x) :
    settle t (e t) = .next t := by
  rcases (settle_next_iff ..).mp h with he | ⟨x, he, rfl⟩
  · rw [hok he, settle_ok]
  · rw [hstop x he, settle_error, recordStop_recordStop]

theorem pinEffect_repeated {level : Bool} {s t : State} (h : settle s (pinEffect level s) = .next t) :
    settle t (pinEffect level t) = .next t := by
  refine settle_repeated h (fun hok => ?_) fun x hx => ?_
  · rcases pinEffect_cases level s with ⟨hcap, e⟩ | ⟨-, e⟩ <;> rw [e] at hok <;> cases hok
    exact if_pos hcap
  · rcases pinEffect_cases level s with ⟨-, e⟩ | ⟨hcap, e⟩ <;> rw [e] at hx <;> cases hx
    exact if_neg (by simp [hcap])

/-! ## Repeating a register write -/

/-- The byte written back over `old`: the bits of `keep` kept, those of `set` set, the others cleared. -/
def written (keep set old : Byte) : Byte := old &&& keep ||| set

theorem writeEffect_eq (r : Reg) (v : Byte) (s : State) :
    writeEffect r v s = regWrite (encode (.wr r v)) r (written 0 v (regRead r s)) s := by
  simp [writeEffect, written]

theorem setEffect_eq (r : Reg) (m : Byte) (s : State) :
    setEffect r m s = regWrite (encode (.setb r m)) r (written (BitVec.allOnes 8) m (regRead r s)) s := by
  rw [written, BitVec.and_allOnes]
  rfl

theorem clearEffect_eq (r : Reg) (m : Byte) (s : State) :
    clearEffect r m s = regWrite (encode (.clrb r m)) r (written (~~~m) 0 (regRead r s)) s := by
  simp [clearEffect, clearBits, written]

theorem written_written (keep set old : Byte) : written keep set (written keep set old) = written keep set old := by
  unfold written
  ext i hi
  simp only [BitVec.getElem_or, BitVec.getElem_and]
  cases old[i] <;> cases keep[i] <;> cases set[i] <;> rfl

/-- R39, R130: reserved bits read 0. -/
theorem regRead_and_reservedMask (r : Reg) (s : State) : regRead r s &&& reservedMask r = 0 := by
  cases r with
  | tmode => exact (by decide : ∀ b : BitVec 2, b.setWidth 8 &&& (0xFC : Byte) = 0) s.wgm
  | tpresc => exact (by decide : ∀ b : BitVec 3, b.setWidth 8 &&& (0xF8 : Byte) = 0) s.cs
  | tcmp => exact BitVec.and_zero
  | timsk => exact (by decide : ∀ b, bit1Byte b &&& (0xFD : Byte) = 0) s.ocie
  | tifr => exact (by decide : ∀ b, bit1Byte b &&& (0xFD : Byte) = 0) s.flag

/-- So whether a command sets a reserved bit is a matter of its operand alone. -/
theorem written_regRead_and_reservedMask (keep set : Byte) (r : Reg) (s : State) :
    written keep set (regRead r s) &&& reservedMask r = set &&& reservedMask r := by
  calc (regRead r s &&& keep ||| set) &&& reservedMask r
    _ = (regRead r s &&& reservedMask r) &&& keep ||| set &&& reservedMask r := by
        ext i hi
        simp only [BitVec.getElem_or, BitVec.getElem_and, Bool.and_or_distrib_right, Bool.and_right_comm]
    _ = set &&& reservedMask r := by rw [regRead_and_reservedMask]; simp

/-- R130, R131: but for `TIFR`, a register reads as the byte written to it. -/
theorem regRead_of_regWrite_same {w : CmdWord} {r : Reg} {v : Byte} {s t : State} (hr : r ≠ .tifr)
    (h : regWrite w r v s = .ok t) : regRead r t = v := by
  rcases regWrite_cases w r v s with
    ⟨-, e⟩ | ⟨hv, ⟨rfl, e⟩ | ⟨-, -, e⟩ | ⟨rfl, -, e⟩ | ⟨rfl, e⟩ | ⟨rfl, e⟩ | ⟨rfl, -⟩⟩
  on_goal 7 => exact absurd rfl hr
  all_goals rw [e] at h; cases h
  · exact (by decide : ∀ v : Byte, v &&& 0xFC = 0 → (v.extractLsb' 0 2).setWidth 8 = v) v hv
  · rw [regRead, selectPrescaler_cs]
    exact (by decide : ∀ v : Byte, v &&& 0xF8 = 0 → (v.extractLsb' 0 3).setWidth 8 = v) v hv
  · rfl
  · exact (by decide : ∀ v : Byte, v &&& 0xFD = 0 → bit1Byte (v.getLsbD 1) = v) v hv

theorem selectPrescaler_again (k : BitVec 3) (s : State) :
    selectPrescaler k (selectPrescaler k s) = selectPrescaler k s := by
  simpa using selectPrescaler_same (selectPrescaler k s)

/-- A flag that a write has left is left by the next one too, whatever byte each makes of the flag it finds. -/
theorem flagAfterTifrWrite_again (data : Bool → Byte) {flag flag' : Bool}
    (h : flagAfterTifrWrite (data flag) flag = flag') : flagAfterTifrWrite (data flag') flag' = flag' := by
  cases flag' with
  | false => rfl
  | true =>
    obtain rfl : flag = true := by
      rw [flagAfterTifrWrite, Bool.and_eq_true] at h
      exact h.1
    exact h

theorem regWrite_tifr_eq_ok_iff (w : CmdWord) (v : Byte) (s t : State) :
    regWrite w .tifr v s = .ok t ↔
      v &&& reservedMask .tifr = 0 ∧ t = { s with flag := flagAfterTifrWrite v s.flag } := by
  by_cases hv : v &&& reservedMask .tifr = 0
  · simp [regWrite, hv, eq_comm]
  · rw [regWrite, if_pos hv]
    exact iff_of_false nofun fun h => hv h.1

/-- A byte written once more changes nothing; a repeated select does not redraw `phase`. -/
theorem regWrite_again {w : CmdWord} {r : Reg} {v : Byte} {s t : State} (h : regWrite w r v s = .ok t) :
    regWrite w r v t = .ok t := by
  rcases regWrite_cases w r v s with
    ⟨-, e⟩ | ⟨hv, ⟨rfl, e⟩ | ⟨-, -, e⟩ | ⟨rfl, hk, e⟩ | ⟨rfl, e⟩ | ⟨rfl, e⟩ | ⟨rfl, e⟩⟩ <;>
    rw [e] at h <;> cases h
  · simp [regWrite, hv]
  · simp [regWrite, hv, Nat.not_lt.mpr hk, selectPrescaler_again, -BitVec.extractLsb'_toNat]
  · simp [regWrite, hv]
  · simp [regWrite, hv]
  · simp [regWrite, hv, flagAfterTifrWrite_again (fun _ => v) rfl]

theorem regWrite_written_again {w : CmdWord} {keep set : Byte} {r : Reg} {s t : State}
    (h : regWrite w r (written keep set (regRead r s)) s = .ok t) :
    regWrite w r (written keep set (regRead r t)) t = .ok t := by
  by_cases hr : r = .tifr
  · subst hr
    rw [regWrite_tifr_eq_ok_iff, written_regRead_and_reservedMask] at h ⊢
    obtain ⟨hset, rfl⟩ := h
    refine ⟨hset, ?_⟩
    have hflag := flagAfterTifrWrite_again (fun flag => written keep set (bit1Byte flag)) (flag := s.flag) rfl
    exact congrArg (fun flag => { s with flag := flag }) hflag.symm
  · rw [regRead_of_regWrite_same hr h, written_written]
    exact regWrite_again h

/-- A write's faults depend on the byte and the parameters alone. -/
theorem regWrite_recordStop {w : CmdWord} {r : Reg} {v : Byte} {s : State} {x : Stop} (y : Stop)
    (h : regWrite w r v s = .error x) : regWrite w r v (recordStop y s) = .error x := by
  rw [recordStop_frame]
  rcases regWrite_cases w r v s with
    ⟨hv, e⟩ | ⟨hv, ⟨-, e⟩ | ⟨rfl, hk, e⟩ | ⟨-, -, e⟩ | ⟨-, e⟩ | ⟨-, e⟩ | ⟨-, e⟩⟩ <;>
    rw [e] at h <;> cases h
  · exact if_pos hv
  · simp [regWrite, hv, hk, -BitVec.extractLsb'_toNat]

theorem regWrite_written_repeated {w : CmdWord} {keep set : Byte} {r : Reg} {s t : State}
    (h : settle s (regWrite w r (written keep set (regRead r s)) s) = .next t) :
    settle t (regWrite w r (written keep set (regRead r t)) t) = .next t :=
  settle_repeated (e := fun u => regWrite w r (written keep set (regRead r u)) u) h regWrite_written_again
    fun x hx => by
      rw [regRead_recordStop]
      exact regWrite_recordStop x hx

/-! ## Repeated commands (R67) -/

theorem exec_repeated {i : Instr} {s t : State} (hi : opOf i ∈ [Op.wr, Op.setb, Op.clrb, Op.pset, Op.pclr, Op.giew])
    (h : exec i s = .next t) : exec i t = .next t := by
  cases i with
  | wr r v =>
    rw [exec, execWr, writeEffect_eq] at h ⊢
    exact regWrite_written_repeated h
  | setb r m =>
    rw [exec, execSetb, setEffect_eq] at h ⊢
    exact regWrite_written_repeated h
  | clrb r m =>
    rw [exec, execClrb, clearEffect_eq] at h ⊢
    exact regWrite_written_repeated h
  | pset | pclr => exact pinEffect_repeated h
  | giew b => cases h; rfl
  | rd | ptog | prd | gier => simp [opOf] at hi

/-- R180: with the capability, `PTOG` inverts the pin. -/
theorem eq_of_exec_ptog {s t : State} (h : exec .ptog s = .next t) (hcap : s.capTaken = true) :
    t = { s with pin := !s.pin } := by
  rw [exec, execPtog, pinEffect, if_pos hcap] at h
  cases h
  rfl

/-- Settles O26: a register or pin command repeats its effect or its stop, and the pin inverted twice is the pin. -/
theorem repeatedCommandsAreIdempotent : Obligations.RepeatedCommandsAreIdempotent := by
  refine ⟨fun i s t => exec_repeated, fun s t u hcap ht hu => ?_⟩
  obtain rfl := eq_of_exec_ptog ht hcap
  obtain rfl := eq_of_exec_ptog hu hcap
  simp

/-! ## The critical section of a call (R71, R220) -/

/-- R220: past its `GIEW 0`, a call in progress has interrupts disabled. -/
theorem gie_eq_false_of_callOk {s : State} {c : Call} (hok : callOk s c = true)
    (hhead : c.ops.head? ≠ some (.cmd (.giew false))) : s.gie = false := by
  obtain ⟨ops, ret⟩ := c
  obtain ⟨-, ⟨rest, rfl, -⟩ | ⟨-, hgie⟩⟩ := (callOk_iff ..).mp hok
  · exact absurd rfl hhead
  · exact hgie

/-- Settles O54: the invariant keeps `gie = 0` there, and without `gie` there is no request. -/
theorem criticalSectionExcludesTheHandler : Obligations.CriticalSectionExcludesTheHandler := by
  intro s c hinv hcall hhead
  have hgie := gie_eq_false_of_callOk (hinv.callInScript c hcall).2 hhead
  simp [enabled, irqRequest, hgie]

end Sys2Proof.Machine

/-! # The command word (spec/30_encoding.md R80 to R90)

`decode_spec` says once what the decoder answers for each word; the statements on the encoding, the illegal and the
reserved words, and the opcode table rest on it. -/

namespace Sys2Proof.Machine

/-! ## A word by its fields -/

/-- R81: a word is `packWord` of exactly its own three fields. -/
theorem packWord_eq_iff (op reg : BitVec 4) (imm : Byte) (w : CmdWord) :
    packWord op reg imm = w ↔ opField w = op ∧ regField w = reg ∧ immField w = imm := by
  constructor
  · rintro rfl
    simp
  · rintro ⟨rfl, rfl, rfl⟩
    exact packWord_fields w

/-- `w[11:0]` is `REG` and `IMM8`. -/
theorem operandBits_eq_zero_iff (w : CmdWord) : operandBits w = 0 ↔ regField w = 0 ∧ immField w = 0 := by
  simp only [← BitVec.toNat_inj, operandBits_toNat, regField_toNat, immField_toNat]
  change w.toNat % 0x1000 = 0 ↔ w.toNat / 0x100 % 0x10 = 0 ∧ w.toNat % 0x100 = 0
  omega

/-- `w[11:1]` is `REG` and `IMM8` without its bit 0, the operand of `GIEW` (R84). -/
theorem giewZeroBits_eq_zero_iff (w : CmdWord) :
    giewZeroBits w = 0 ↔ regField w = 0 ∧ immField w = if w.getLsbD 0 then 1 else 0 := by
  have hbit : w.getLsbD 0 = decide (w.toNat % 2 = 1) := by simp [BitVec.getLsbD, Nat.testBit_zero]
  have himm : (if w.getLsbD 0 then (1 : Byte) else 0).toNat = w.toNat % 2 := by
    rw [hbit]
    rcases Nat.mod_two_eq_zero_or_one w.toNat with h | h <;> simp [h]
  simp only [← BitVec.toNat_inj, giewZeroBits_toNat, regField_toNat, immField_toNat, himm]
  change w.toNat % 0x1000 / 2 = 0 ↔ w.toNat / 0x100 % 0x10 = 0 ∧ w.toNat % 0x100 = w.toNat % 2
  omega

/-! ## What the decoder answers -/

/-- R87: the illegal words are those that one of the decoder's first four checks rejects (R86). -/
theorem illegalWord_iff_checks (w : CmdWord) :
    illegalWord w ↔ (opField w = 0x0#4 ∨ 0xB#4 ≤ opField w)
      ∨ (takesNoOperand (opField w) = true ∧ operandBits w ≠ 0)
      ∨ (opField w = 0x9#4 ∧ giewZeroBits w ≠ 0) ∨ (opField w = 0x2#4 ∧ immField w ≠ 0) := by
  simp only [illegalWord, takesNoOperand, wordOp, wordImm, Bool.or_eq_true, beq_iff_eq, List.mem_cons, List.not_mem_nil,
    or_false, ne_eq, BitVec.le_def, ← BitVec.toNat_inj, opField_toNat, operandBits_toNat, giewZeroBits_toNat,
    immField_toNat, BitVec.toNat_ofNat]
  simp [or_assoc]

theorem regOfNumber_eq_none_iff (n : BitVec 4) : regOfNumber n = none ↔ n.toNat = 2 ∨ 6 ≤ n.toNat := by
  revert n; decide

/-- R88: the reserved-register words are those of the four register commands whose number names no register. -/
theorem reservedRegisterWord_iff_fields (w : CmdWord) :
    reservedRegisterWord w ↔
      (opField w = 0x1#4 ∨ (opField w = 0x2#4 ∧ immField w = 0) ∨ opField w = 0x3#4 ∨ opField w = 0x4#4)
        ∧ regOfNumber (regField w) = none := by
  simp only [reservedRegisterWord, regOfNumber_eq_none_iff, wordOp, wordReg, wordImm, ← BitVec.toNat_inj,
    opField_toNat, regField_toNat, immField_toNat, BitVec.toNat_ofNat]
  simp

/-- R87: the words that pass the four checks are those of the ten operations with zero must-be-zero bits. -/
theorem not_illegalWord_iff (w : CmdWord) :
    ¬ illegalWord w ↔ (opField w = 1 ∨ opField w = 3 ∨ opField w = 4)
      ∨ (opField w = 2 ∧ immField w = 0) ∨ (takesNoOperand (opField w) = true ∧ operandBits w = 0)
      ∨ (opField w = 9 ∧ giewZeroBits w = 0) := by
  simp only [illegalWord_iff_checks, takesNoOperand, Bool.or_eq_true, beq_iff_eq]
  bv_omega

/-- What the decoder answers for a word: it is illegal, or names a reserved register, or is a command's own word. -/
inductive DecodeSpec (w : CmdWord) : Except Reject Instr → Prop where
  | illegal (h : illegalWord w) : DecodeSpec w (.error (.illegalCommand w))
  | reserved (h : reservedRegisterWord w) : DecodeSpec w (.error (.reservedRegister w))
  | command (i : Instr) (h : encode i = w) : DecodeSpec w (.ok i)

theorem withReg_spec {w : CmdWord} {mk : Reg → Instr}
    (hop : opField w = 0x1#4 ∨ (opField w = 0x2#4 ∧ immField w = 0) ∨ opField w = 0x3#4 ∨ opField w = 0x4#4)
    (hmk : ∀ r, encode (mk r) = packWord (opField w) (numberOfReg r) (immField w)) : DecodeSpec w (withReg w mk) := by
  unfold withReg
  split
  next r hr =>
    refine .command _ ?_
    rw [hmk, numberOfReg_of_regOfNumber hr, packWord_fields]
  next hr => exact .reserved ((reservedRegisterWord_iff_fields w).mpr ⟨hop, hr⟩)

/-- The branches follow R86's checks in order, and then the ten operations. -/
theorem decode_spec (w : CmdWord) : DecodeSpec w (decode w) := by
  have illegal := (illegalWord_iff_checks w).mpr
  have noOperand {op : BitVec 4} {i : Instr} (hop : opField w = op) (ht : takesNoOperand op = true)
      (hz : ¬ (takesNoOperand (opField w) = true ∧ operandBits w ≠ 0)) (hi : encode i = packWord op 0 0) :
      DecodeSpec w (.ok i) := by
    have hbits : operandBits w = 0 := by simpa [hop, ht] using hz
    exact .command i (hi.trans ((packWord_eq_iff ..).mpr ⟨hop, (operandBits_eq_zero_iff w).mp hbits⟩))
  unfold decode
  refine iteInduction (fun h => .illegal (illegal (.inl h))) fun hrange => ?_
  refine iteInduction (fun h => .illegal (illegal (.inr (.inl h)))) fun hz => ?_
  refine iteInduction (fun h => .illegal (illegal (.inr (.inr (.inl h))))) fun hgiew => ?_
  refine iteInduction (fun h => .illegal (illegal (.inr (.inr (.inr h))))) fun hrd => ?_
  refine iteInduction (fun h => withReg_spec (.inl h) fun r => by rw [h]; rfl) fun h1 => ?_
  refine iteInduction (fun h => ?_) fun h2 => ?_
  · have himm : immField w = 0 := by simpa [h] using hrd
    exact withReg_spec (.inr (.inl ⟨h, himm⟩)) fun r => by rw [h, himm]; rfl
  refine iteInduction (fun h => withReg_spec (.inr (.inr (.inl h))) fun r => by rw [h]; rfl) fun h3 => ?_
  refine iteInduction (fun h => withReg_spec (.inr (.inr (.inr h))) fun r => by rw [h]; rfl) fun h4 => ?_
  refine iteInduction (fun h => noOperand h rfl hz rfl) fun h5 => ?_
  refine iteInduction (fun h => noOperand h rfl hz rfl) fun h6 => ?_
  refine iteInduction (fun h => noOperand h rfl hz rfl) fun h7 => ?_
  refine iteInduction (fun h => noOperand h rfl hz rfl) fun h8 => ?_
  refine iteInduction (fun h => ?_) fun h9 => ?_
  · have hbits : giewZeroBits w = 0 := by simpa [h] using hgiew
    exact .command _ ((packWord_eq_iff ..).mpr ⟨h, (giewZeroBits_eq_zero_iff w).mp hbits⟩)
  · have hA : opField w = 0xA#4 := by bv_omega
    exact noOperand hA rfl hz rfl

/-! ## Commands, illegal words and reserved words exclude each other -/

theorem not_illegalWord_encode (i : Instr) : ¬ illegalWord (encode i) := by
  rw [illegalWord_iff_checks]
  cases i with
  | wr r v | setb r v | clrb r v | rd r => simp [encode, takesNoOperand]
  | ptog | pset | pclr | prd | gier => decide
  | giew b => cases b <;> decide

theorem not_reservedRegisterWord_encode (i : Instr) : ¬ reservedRegisterWord (encode i) := by
  rw [reservedRegisterWord_iff_fields]
  cases i with
  | wr r v | setb r v | clrb r v | rd r => simp [encode]
  | ptog | pset | pclr | prd | gier => decide
  | giew b => cases b <;> decide

theorem not_illegalWord_of_reservedRegisterWord {w : CmdWord} (h : reservedRegisterWord w) : ¬ illegalWord w := by
  obtain ⟨hop, -⟩ := h
  simp only [illegalWord, List.mem_cons, List.not_mem_nil, or_false]
  omega

theorem decode_eq_illegalCommand_iff (w : CmdWord) : decode w = .error (.illegalCommand w) ↔ illegalWord w := by
  have hspec := decode_spec w
  generalize decode w = answer at hspec ⊢
  cases hspec with
  | illegal h => simp [h]
  | reserved h => simp [not_illegalWord_of_reservedRegisterWord h]
  | command i h => simp [← h, not_illegalWord_encode i]

theorem decode_eq_reservedRegister_iff (w : CmdWord) :
    decode w = .error (.reservedRegister w) ↔ reservedRegisterWord w := by
  have hspec := decode_spec w
  generalize decode w = answer at hspec ⊢
  cases hspec with
  | illegal h => simpa using fun hres => not_illegalWord_of_reservedRegisterWord hres h
  | reserved h => simp [h]
  | command i h => simp [← h, not_reservedRegisterWord_encode i]

/-- R87, R88, R250: a rejected word is recorded as the fault, and nothing else changes. -/
theorem commandStep_of_reject {w : CmdWord} {e : Reject} {s : State} (hd : decode w = .error e) (hf : s.fault = none) :
    commandStep w s = .next { s with fault := some (faultOfReject e) } := by
  simp [commandStep, hd, raiseFault, hf]

/-! ## The statements on the decoder -/

/-- Settles O1: each command's fields are read back from its word. -/
theorem decodeOfEncodeIsTheCommand : Obligations.DecodeOfEncodeIsTheCommand := by
  intro i
  cases i with
  | wr r v | setb r v | clrb r v | rd r => simp [encode, decode, takesNoOperand, withReg]
  | ptog | pset | pclr | prd | gier => rfl
  | giew b => cases b <;> rfl

/-- Settles O2: the decoder answers a command only for that command's word. -/
theorem encodeOfDecodeIsTheWord : Obligations.EncodeOfDecodeIsTheWord := by
  intro w i h
  have hspec := decode_spec w
  rw [h] at hspec
  cases hspec
  assumption

/-- Settles O3: the decoder's answer for an illegal word, recorded as the fault. -/
theorem illegalWordsFaultAndChangeNothing : Obligations.IllegalWordsFaultAndChangeNothing := fun w =>
  ⟨decode_eq_illegalCommand_iff w,
    fun h _ hf => commandStep_of_reject ((decode_eq_illegalCommand_iff w).mpr h) hf⟩

/-- Settles O4: the decoder's answer for a reserved-register word, recorded as the fault. -/
theorem reservedRegisterWordsFault : Obligations.ReservedRegisterWordsFault := fun w =>
  ⟨decode_eq_reservedRegister_iff w,
    fun h _ hf => commandStep_of_reject ((decode_eq_reservedRegister_iff w).mpr h) hf⟩

/-- Settles O6: each word is the encoding of its command. -/
theorem wordsOfTheEncodingTableDecode : Obligations.WordsOfTheEncodingTableDecode := by
  have decodes {w : CmdWord} {i : Instr} (h : encode i = w) : decode w = .ok i := h ▸ decodeOfEncodeIsTheCommand i
  exact ⟨decodes rfl, decodes rfl, decodes rfl, decodes rfl, decodes rfl, decodes rfl, decodes rfl, decodes rfl,
    decodes rfl, decodes rfl, decodes rfl, decodes rfl, decodes rfl, decodes rfl⟩

/-- Settles O8: Mainline's turn is used, and its item is the rejected word. -/
theorem stepOfARejectedWordRecordsTheFault : Obligations.StepOfARejectedWordRecordsTheFault := by
  intro s w e rest hf hr hwf hc hs hit hd
  have hen := enabled_mainline_of_item ((marked_eq_false_iff s).mpr ⟨hf, hr⟩) hit
  calc step s = mainlineStep { s with schedule := rest } := step_of_turn hwf hs hen
    _ = commandStep w { s with schedule := rest } :=
        mainlineStep_item (s := { s with schedule := rest }) (it := .command w) hc hit
    _ = .next { s with schedule := rest, fault := some (faultOfReject e) } := commandStep_of_reject hd hf

/-! ## The opcode table (R84) -/

@[simp] theorem regField_and (a b : CmdWord) : regField (a &&& b) = regField a &&& regField b := by
  unfold regField
  ext i hi
  simp

@[simp] theorem immField_and (a b : CmdWord) : immField (a &&& b) = immField a &&& immField b := by
  unfold immField
  ext i hi
  simp

/-- A row matches a word field by field. -/
theorem accepts_iff_fields (r : OpRow) (w : CmdWord) :
    r.accepts w = true ↔ opField w &&& opField r.mask = opField r.pattern
      ∧ regField w &&& regField r.mask = regField r.pattern ∧ immField w &&& immField r.mask = immField r.pattern := by
  rw [OpRow.accepts, beq_iff_eq, eq_comm, ← packWord_fields r.pattern, packWord_eq_iff, opField_and, regField_and,
    immField_and]
  simp

/-- The only mask that splits a field is that of `GIEW`: it leaves out bit 0, the operand. -/
theorem immField_and_giewMask (w : CmdWord) :
    immField w &&& 0xFE = 0 ↔ immField w = if w.getLsbD 0 then 1 else 0 := by
  have hbit : w.getLsbD 0 = (immField w).getLsbD 0 := by simp [immField]
  rw [hbit]
  generalize immField w = v
  revert v; decide

/-- R84: some row matches a word exactly when its operation is one of the ten and its must-be-zero bits are zero. -/
theorem exists_row_iff_not_illegalWord (w : CmdWord) :
    (∃ r, r ∈ opTable ∧ r.accepts w = true) ↔ ¬ illegalWord w := by
  have hop (v : BitVec 4) : v &&& 15#4 = v := BitVec.and_allOnes
  have himm (v : Byte) : v &&& 255#8 = v := BitVec.and_allOnes
  rw [not_illegalWord_iff, operandBits_eq_zero_iff, giewZeroBits_eq_zero_iff, ← immField_and_giewMask]
  simp only [accepts_iff_fields, opTable, List.mem_cons, exists_eq_or_imp, takesNoOperand]
  generalize opField w = op, regField w = reg, immField w = imm
  simp only [opField, BitVec.ofNat_eq_ofNat, BitVec.reduceExtractLsb', hop, regField, BitVec.and_zero, immField,
    and_self, and_true, himm, true_and, List.not_mem_nil, false_and, exists_false, or_false, Bool.or_eq_true,
    beq_iff_eq]
  grind

/-- Every command's word belongs to the command's own row and to no other. -/
theorem ownRow (i : Instr) : Laws.OwnRow.Statement i := by
  cases i with
  | wr r v => exact Laws.OwnRow.wr r v
  | rd r => exact Laws.OwnRow.rd r
  | setb r m => exact Laws.OwnRow.setb r m
  | clrb r m => exact Laws.OwnRow.clrb r m
  | ptog => exact Laws.OwnRow.ptog
  | pset => exact Laws.OwnRow.pset
  | pclr => exact Laws.OwnRow.pclr
  | prd => exact Laws.OwnRow.prd
  | giew b => exact Laws.OwnRow.giew b
  | gier => exact Laws.OwnRow.gier

/-- Settles O5: rows differ in their operation field, and the words that match one are those that pass the checks of
`illegalWord`. -/
theorem opcodeTableIsTheDecoder : Obligations.OpcodeTableIsTheDecoder := by
  have rows : ∀ a ∈ opTable, ∀ b ∈ opTable, opField a.pattern = opField b.pattern → a = b := by decide
  have hasRow (op : Op) : ∃ r, r ∈ opTable ∧ r.op = op := by cases op <;> decide
  refine ⟨fun w a b ha hb hwa hwb => ?_, exists_row_iff_not_illegalWord, fun w i h => ?_⟩
  · refine rows a ha b hb ?_
    rw [← Laws.OwnRow.opField_of_accepts ha hwa, Laws.OwnRow.opField_of_accepts hb hwb]
  · obtain ⟨r, hr, hop⟩ := hasRow (opOf i)
    rw [← encodeOfDecodeIsTheWord w i h]
    exact ⟨r, hr, hop, (ownRow i r hr).mpr hop⟩

end Sys2Proof.Machine

/-! # The critical sections of a script (spec/30_encoding.md R97, spec/45_tone_api.md R220, R221)

`SectionInv` follows how many values Mainline holds above the one that a given `CS_ENTER` saved: as many as the script's
items since then leave held, once the call in progress has taken its own away. -/

namespace Sys2Proof.Machine

/-! ## One step of each item -/

/-- R97, R220: `CS_ENTER`'s first item. -/
theorem mainlineStep_saveGie {s : State} (hm : marked s = false) (hc : s.call = none)
    (hit : s.script[s.mpos]? = some .saveGie) :
    mainlineStep s = .next { s with answer := none, held := s.gie :: s.held, mpos := s.mpos + 1 } := by
  have hm' : marked { s with answer := none, held := s.gie :: s.held } = false := hm
  simp [mainlineStep_item hc hit, itemStep, saveGie_of_unmarked hm, thenUnmarked_next, hm', itemDone]

/-- R97, R220: `CS_EXIT`, once its operation `GIEW s` has answered. -/
theorem mainlineStep_restoreGie {s t : State} (ht : restoreGie s = .next t) (hm : marked t = false)
    (hc : s.call = none) (hit : s.script[s.mpos]? = some .restoreGie) :
    mainlineStep s = .next { t with mpos := t.mpos + 1 } := by
  simp [mainlineStep_item hc hit, itemStep, ht, thenUnmarked_next, hm, itemDone]

theorem restoreGie_of_held {s : State} {b : Bool} {rest : List Bool} (hh : s.held = b :: rest) :
    restoreGie s = .next { s with gie := b, held := rest } := by
  simp [restoreGie, hh, exec, execGiew]

theorem mainlineStep_restoreGie_of_held {s : State} {b : Bool} {rest : List Bool} (hm : marked s = false)
    (hc : s.call = none) (hit : s.script[s.mpos]? = some .restoreGie) (hh : s.held = b :: rest) :
    mainlineStep s = .next { s with gie := b, held := rest, mpos := s.mpos + 1 } :=
  mainlineStep_restoreGie (restoreGie_of_held hh) hm hc hit

/-- With no value held, `GIEW s` writes a drawn one (log entry 10). -/
theorem mainlineStep_restoreGie_of_held_nil {s : State} (hm : marked s = false) (hc : s.call = none)
    (hit : s.script[s.mpos]? = some .restoreGie) (hh : s.held = []) :
    ∃ b, mainlineStep s = .next { s with gie := b, draws := s.draws + 1, mpos := s.mpos + 1 } := by
  have hdraw : restoreGie s = .next { s with gie := decide (drawBelow s.draws 2 = 1), draws := s.draws + 1 } := by
    simp [restoreGie, hh, exec, execGiew]
  exact ⟨_, mainlineStep_restoreGie hdraw hm hc hit⟩

/-! ## How many values are held -/

/-- How many values are held after an operation of Mainline, with `n` held before it; none where it takes one and there
is none. -/
def opDepth (n : Nat) : CallOp → Option Nat
  | .save => some (n + 1)
  | .restore => if 0 < n then some (n - 1) else none
  | .cmd _ | .setBudget _ | .readActive => some n

/-- An item that neither begins nor ends a critical section of the script. -/
def neutral (it : Item) : Prop := ∀ n, sectionDepth n [it] = some n

/-- `n` values are held above `below`. -/
def HoldsOver (n : Nat) (below : List Bool) (s : State) : Prop :=
  ∃ inner : List Bool, inner.length = n ∧ s.held = inner ++ below

theorem sectionDepth_append (n : Nat) (l l' : List Item) :
    sectionDepth n (l ++ l') = (sectionDepth n l).bind fun k => sectionDepth k l' := by
  induction l generalizing n with
  | nil => rfl
  | cons it rest ih =>
    cases it with
    | restoreGie =>
      simp only [List.cons_append, sectionDepth]
      split
      · exact ih _
      · rfl
    | command | pinit | startTone | stopTone | isActive | saveGie => exact ih _

/-- The held values of the section count up with `s <- GIER` and down with `GIEW s`, and nothing else touches them. -/
theorem HoldsOver.after {n k : Nat} {below : List Bool} {op : CallOp} {s t : State} (h : HoldsOver n below s)
    (hm : marked s = false) (hop : opDepth n op = some k) (ht : callOpStep op s = .next t) : HoldsOver k below t := by
  obtain ⟨inner, hlen, hheld⟩ := h
  cases op with
  | cmd i =>
    cases hop
    exact ⟨inner, hlen, by rw [exec_frame ht]; exact hheld⟩
  | setBudget | readActive => cases hop; cases ht; exact ⟨inner, hlen, hheld⟩
  | save =>
    rw [callOpStep, saveGie_of_unmarked hm] at ht
    cases hop; cases ht
    exact ⟨s.gie :: inner, by simp [hlen], by simp [hheld]⟩
  | restore =>
    cases inner with
    | nil => simp [opDepth, ← hlen] at hop
    | cons b rest =>
      rw [callOpStep, restoreGie_of_held hheld] at ht
      cases ht
      refine ⟨rest, ?_, rfl⟩
      simpa [opDepth, ← hlen] using hop

/-- R220, R223, R226, R228: a call takes away what it holds. -/
theorem Begins.foldlM_opDepth {s : State} {it : Item} {c : Call} (h : Begins s it c) (n : Nat) :
    c.ops.foldlM opDepth n = some n := by
  cases h <;> rfl

theorem Begins.neutral {s : State} {it : Item} {c : Call} (h : Begins s it c) : neutral it := by
  cases h <;> exact fun _ => rfl

/-! ## The items since a point of the script -/

/-- The items from position `start` to Mainline's next one. -/
def itemsSince (start : Nat) (s : State) : List Item := (s.script.take s.mpos).drop start

/-- The steps that are left of the call in progress. -/
def callOps (s : State) : List CallOp := (s.call.map Call.ops).getD []

/-- Since Mainline stood at `start` with `below` held: a call in progress stands at a neutral item, and where the items
since `start` leave `d` values held, these stand above `below` once the call in progress has ended. -/
structure SectionInv (start : Nat) (below : List Bool) (s : State) : Prop where
  started : start ≤ s.mpos
  callNeutral : s.call.isSome = true → ∃ it, s.script[s.mpos]? = some it ∧ neutral it
  heldOver : ∀ d, sectionDepth 0 (itemsSince start s) = some d →
    ∃ n, HoldsOver n below s ∧ (callOps s).foldlM opDepth n = some d

section

variable {start : Nat} {below : List Bool} {s t u : State}

theorem sectionInv_start (hmpos : s.mpos = start) (hheld : s.held = below) (hc : s.call = none) :
    SectionInv start below s where
  started := hmpos.ge
  callNeutral h := by simp [hc] at h
  heldOver d hd := by
    have hitems : itemsSince start s = [] := List.drop_of_length_le (by simp [hmpos])
    rw [hitems] at hd
    cases hd
    exact ⟨0, ⟨[], rfl, hheld⟩, by simp [callOps, hc]⟩

/-- The invariant speaks of the script, Mainline's position and call, and what is held. -/
theorem SectionInv.congr (h : SectionInv start below s) (hk : KeepsProgram s t) (hheld : t.held = s.held) :
    SectionInv start below t := by
  obtain ⟨hstart, hcall, hover⟩ := h
  refine ⟨?_, ?_, ?_⟩
  · rwa [hk.mpos]
  · rwa [hk.mpos, hk.call, hk.script]
  · unfold itemsSince callOps HoldsOver at *
    rwa [hk.mpos, hk.call, hk.script, hheld]

theorem SectionInv.recordStop (x : Stop) (h : SectionInv start below s) :
    SectionInv start below (recordStop x s) :=
  h.congr (keepsProgram_recordStop x s) (by rw [recordStop_frame])

/-- An item is done: with it, the items since `start` leave what is held now. -/
theorem SectionInv.itemDone {it : Item} (h : SectionInv start below s) (hit : s.script[s.mpos]? = some it)
    (hscript : t.script = s.script) (hmpos : t.mpos = s.mpos + 1) (hcall : t.call = none)
    (hover : ∀ d k, sectionDepth 0 (itemsSince start s) = some d → sectionDepth d [it] = some k →
      HoldsOver k below t) : SectionInv start below t where
  started := by have := h.started; omega
  callNeutral hc := by simp [hcall] at hc
  heldOver k hk := by
    obtain ⟨hlt, -⟩ := List.getElem?_eq_some_iff.mp hit
    have hitems : itemsSince start t = itemsSince start s ++ [it] := by
      have hlen : start ≤ (s.script.take s.mpos).length := by have := h.started; simp; omega
      rw [itemsSince, hscript, hmpos, List.take_add_one, hit, List.drop_append_of_le_length hlen]
      rfl
    rw [hitems, sectionDepth_append, Option.bind_eq_some_iff] at hk
    obtain ⟨d, hd, hk⟩ := hk
    exact ⟨k, hover d k hd hk, by simp [callOps, hcall]⟩

/-- A neutral item is done. -/
theorem SectionInv.neutralDone {it : Item} (h : SectionInv start below s) (hit : s.script[s.mpos]? = some it)
    (hn : neutral it) (hscript : t.script = s.script) (hmpos : t.mpos = s.mpos + 1) (hcall : t.call = none)
    (hover : ∀ d, sectionDepth 0 (itemsSince start s) = some d → HoldsOver d below t) : SectionInv start below t :=
  h.itemDone hit hscript hmpos hcall fun d k hd hk => by
    rw [hn d] at hk
    cases hk
    exact hover d hd

/-- Between calls, what the items since `start` leave is held. -/
theorem SectionInv.holdsOver {d : Nat} (h : SectionInv start below s) (hc : s.call = none)
    (hd : sectionDepth 0 (itemsSince start s) = some d) : HoldsOver d below s := by
  obtain ⟨n, hn, hops⟩ := h.heldOver d hd
  simp only [callOps, hc] at hops
  cases hops
  exact hn

/-- The call that Mainline's step runs, in progress or begun by it, stands at a neutral item and takes away what it
holds. -/
theorem SectionInv.callRuns {c : Call} (h : SectionInv start below s) (hc : CallRuns s c) :
    (∃ it, s.script[s.mpos]? = some it ∧ neutral it)
      ∧ ∀ d, sectionDepth 0 (itemsSince start s) = some d →
          ∃ n, HoldsOver n below s ∧ c.ops.foldlM opDepth n = some d := by
  rcases hc with hc | ⟨hnone, it, hit, hb⟩
  · refine ⟨h.callNeutral (by simp [hc]), fun d hd => ?_⟩
    simpa [callOps, hc] using h.heldOver d hd
  · exact ⟨⟨it, hit, hb.neutral⟩, fun d hd => ⟨d, h.holdsOver hnone hd, hb.foldlM_opDepth d⟩⟩

/-! ## Every step keeps it -/

theorem SectionInv.mainlineOp {op : CallOp} {finish : State → State} (h : SectionInv start below s)
    (hm : marked s = false) (hop : MainlineOp s op finish) (hu : callOpStep op s = .next u) :
    SectionInv start below (finish u) := by
  have hk := callOpStep_keepsProgram hu
  have hmpos : u.mpos + 1 = s.mpos + 1 := by rw [hk.mpos]
  have step {n k : Nat} (hn : HoldsOver n below s) (hd : opDepth n op = some k) : HoldsOver k below u :=
    hn.after hm hd hu
  cases hop with
  | command hc hit hd =>
    exact h.itemDone hit hk.script hmpos (hk.call.trans hc) fun d k hd hk => step (h.holdsOver hc hd) hk
  | saveItem hc hit =>
    exact h.itemDone hit hk.script hmpos (hk.call.trans hc) fun d k hd hk => step (h.holdsOver hc hd) hk
  | restoreItem hc hit =>
    exact h.itemDone hit hk.script hmpos (hk.call.trans hc) fun d k hd hk =>
      step (h.holdsOver hc hd) (by simpa [sectionDepth, opDepth] using hk)
  | @callOp op rest ret hc =>
    obtain ⟨⟨it, hit, hn⟩, hover⟩ := h.callRuns hc
    have hover' (d : Nat) (hd : sectionDepth 0 (itemsSince start s) = some d) :
        ∃ k, HoldsOver k below u ∧ rest.foldlM opDepth k = some d := by
      obtain ⟨n, hheld, hops⟩ := hover d hd
      obtain ⟨k, hk, hrest⟩ := Option.bind_eq_some_iff.mp hops
      exact ⟨k, step hheld hk, hrest⟩
    cases rest with
    | nil =>
      refine h.neutralDone hit hn hk.script hmpos rfl fun d hd => ?_
      obtain ⟨k, hheld, hops⟩ := hover' d hd
      cases hops
      exact hheld
    | cons op' rest =>
      have hit' : u.script[u.mpos]? = some it := by rwa [hk.script, hk.mpos]
      have hitems : itemsSince start u = itemsSince start s := by rw [itemsSince, hk.script, hk.mpos, itemsSince]
      exact ⟨hk.mpos ▸ h.started, fun _ => ⟨it, hit', hn⟩, fun d hd => hover' d (hitems ▸ hd)⟩

theorem SectionInv.mainlineMoves (h : SectionInv start below s) (hm : marked s = false) (ht : MainlineMoves s t) :
    SectionInv start below t := by
  cases ht with
  | idle => exact h
  | @operates op finish u hop hu =>
    split
    next hmu =>
      obtain ⟨x, rfl⟩ := callOpStep_stops_of_marked hm hu hmu
      exact h.recordStop x
    next => exact h.mainlineOp hm hop hu
  | stops x => exact h.recordStop x
  | pinit hc hit => exact h.neutralDone hit (fun _ => rfl) rfl rfl hc fun d hd => h.holdsOver hc hd
  | startError e hc hit => exact h.neutralDone hit (fun _ => rfl) rfl rfl hc fun d hd => h.holdsOver hc hd
  | returns hc =>
    obtain ⟨⟨it, hit, hn⟩, hover⟩ := h.callRuns hc
    refine h.neutralDone hit hn rfl rfl rfl fun d hd => ?_
    obtain ⟨n, hheld, hops⟩ := hover d hd
    cases hops
    exact hheld

theorem timerStep_held (h : timerStep s = .next t) : t.held = s.held := by rw [timerStep_frame h]

theorem interruptStep_held (h : interruptStep s = .next t) : t.held = s.held := by
  rcases interruptStep_cases h with ⟨x, rfl⟩ | ⟨pin, ocie, budget, rfl⟩
  · rw [recordStop_frame]
  · rfl

theorem SectionInv.agentStep {a : Agent} (h : SectionInv start below s) (hen : enabled a s = true)
    (ht : agentStep a s = .next t) : SectionInv start below t := by
  simp only [enabled, Bool.and_eq_true, Bool.not_eq_true'] at hen
  cases a with
  | mainline => exact h.mainlineMoves hen.1 (mainlineStep_moves ht)
  | timer => exact h.congr (timerStep_keepsProgram ht) (timerStep_held ht)
  | interrupt => exact h.congr (interruptStep_keepsProgram ht) (interruptStep_held ht)

end

/-! ## Runs -/

section

variable {ρ : Nat → State} {σ : Nat → Agent} {m k : Nat}

/-- What every enabled agent's step keeps holds on along a run. -/
theorem RunTo.keeps {P : State → Prop} {j : Nat} (hrun : RunTo ρ σ m)
    (hstep : ∀ a s t, enabled a s = true → agentStep a s = .next t → P s → P t) (hjk : j ≤ k) (hk : k ≤ m)
    (hj : P (ρ j)) : P (ρ k) := by
  induction k, hjk using Nat.le_induction with
  | base => exact hj
  | succ k _ ih =>
    obtain ⟨hen, ht⟩ := hrun k hk
    exact hstep _ _ _ hen ht (ih (Nat.le_of_succ_le hk))

theorem RunTo.script (hrun : RunTo ρ σ m) (hk : k ≤ m) : (ρ k).script = (ρ 0).script :=
  hrun.keeps (P := fun s => s.script = (ρ 0).script) (fun _ _ _ _ ht h => (agentStep_onward ht).script.trans h)
    k.zero_le hk rfl

theorem RunTo.unmarked (hrun : RunTo ρ σ m) (hk : k < m) : marked (ρ k) = false := by
  have hen := (hrun k hk).1
  simp only [enabled, Bool.and_eq_true, Bool.not_eq_true'] at hen
  exact hen.1

theorem RunTo.mainlineStep (hrun : RunTo ρ σ m) (hk : k < m) (hσ : σ k = .mainline) :
    mainlineStep (ρ k) = .next (ρ (k + 1)) := by
  have ht := (hrun k hk).2
  rwa [hσ] at ht

end

/-- Settles O60: the state after `CS_ENTER`'s save starts the invariant, and at its own `CS_EXIT` no value is held above
the saved one. -/
theorem scriptCriticalSectionsRestoreGie : Obligations.ScriptCriticalSectionsRestoreGie := by
  refine ⟨fun s hf hr hc => ?_, fun ρ σ m hrun hc hit hσ hcm hitm hσm hlt hdepth => ?_⟩
  · have hm := (marked_eq_false_iff s).mpr ⟨hf, hr⟩
    exact ⟨mainlineStep_saveGie hm hc, fun hit =>
      ⟨fun _ _ => mainlineStep_restoreGie_of_held hm hc hit, mainlineStep_restoreGie_of_held_nil hm hc hit⟩⟩
  · have enters := hrun.mainlineStep m.succ_pos hσ
    have exits := hrun.mainlineStep m.lt_succ_self hσm
    rw [mainlineStep_saveGie (hrun.unmarked m.succ_pos) hc hit] at enters
    have hinv : SectionInv ((ρ 0).mpos + 1) ((ρ 0).gie :: (ρ 0).held) (ρ (0 + 1)) := by
      rw [← Host.Outcome.next.inj enters]
      exact sectionInv_start rfl rfl hc
    have hpos : 0 + 1 ≤ m := Nat.pos_of_ne_zero (by rintro rfl; exact lt_irrefl _ hlt)
    have hinvm := hrun.keeps (fun _ _ _ hen ht h => h.agentStep hen ht) hpos m.le_succ hinv
    rw [← hrun.script m.le_succ] at hdepth
    obtain ⟨inner, hlen, hheld⟩ := hinvm.holdsOver hcm hdepth
    obtain rfl := List.length_eq_zero_iff.mp hlen
    rw [mainlineStep_restoreGie_of_held (hrun.unmarked m.lt_succ_self) hcm hitm hheld] at exits
    rw [← Host.Outcome.next.inj exits]
    exact ⟨rfl, rfl⟩

end Sys2Proof.Machine

/-! # The frequency encoder (spec/40_frequency_encoder.md R111 to R118)

`EncoderAnswer` says once what the encoder can answer for a quotient `q = C / (2f)` of at least 1; the closed form, the
ranges and the reconstruction are read off it. -/

namespace Sys2Proof.Machine

/-! ## Halving the quotient -/

theorem div_two_pow_succ (q k : Nat) : q / 2 ^ (k + 1) = q / 2 ^ k / 2 := by
  rw [pow_succ, Nat.div_div_eq_div_mul]

theorem div_two_pow_antitone (q : Nat) {j k : Nat} (hjk : j ≤ k) : q / 2 ^ k ≤ q / 2 ^ j :=
  Nat.div_le_div_left (Nat.pow_le_pow_right Nat.two_pos hjk) (Nat.two_pow_pos j)

/-- R117: one halving of a quotient above 256 leaves at least 128. -/
theorem le_div_two_pow_of_pos {q k : Nat} (hpos : 1 ≤ k) (hlarge : ∀ j, j < k → 256 < q / 2 ^ j) :
    128 ≤ q / 2 ^ k := by
  obtain ⟨k, rfl⟩ := Nat.exists_eq_add_of_le' hpos
  have hprev := hlarge k k.lt_succ_self
  rw [div_two_pow_succ]
  omega

theorem div_two_pow_pos {q k : Nat} (hq : 1 ≤ q) (hlarge : ∀ j, j < k → 256 < q / 2 ^ j) : 1 ≤ q / 2 ^ k := by
  obtain rfl | hpos := k.eq_zero_or_pos
  · simpa using hq
  · have := le_div_two_pow_of_pos hpos hlarge
    omega

/-! ## What the loop finds and what the encoder answers -/

/-- R111, R114: begun at index `i`, the loop ends with the quotient halved to the index it ends at, every quotient before
it too large, and its own small enough unless the indices ran out. -/
theorem advancePrescaler_spec (q left i : Nat) :
    ∃ k, advancePrescaler left i (q / 2 ^ i - 1) = (k, q / 2 ^ k - 1)
      ∧ (∀ j, i ≤ j → j < k → 256 < q / 2 ^ j) ∧ (q / 2 ^ k ≤ 256 ∨ k = i + left) := by
  induction left generalizing i with
  | zero => exact ⟨i, rfl, by omega, .inr rfl⟩
  | succ left ih =>
    rw [advancePrescaler]
    split
    next hticks =>
      have hhalved : (q / 2 ^ i - 1 + 1) / 2 - 1 = q / 2 ^ (i + 1) - 1 := by
        rw [div_two_pow_succ, Nat.sub_add_cancel (by omega)]
      obtain ⟨k, hfound, hlarge, hend⟩ := ih (i + 1)
      refine ⟨k, by rw [hhalved, hfound], fun j hij hjk => ?_, hend.imp_right (by omega)⟩
      obtain rfl | hlt := hij.eq_or_lt
      · omega
      · exact hlarge j hlt hjk
    next hticks => exact ⟨i, rfl, by omega, .inl (by omega)⟩

/-- What the encoder answers for the quotient `q = C / (2f) ≥ 1` on an instance with `nDiv` dividers: the program of the
least index that brings `q` within a byte's values, or that even the last index does not. -/
inductive EncoderAnswer (nDiv q : Nat) : Checked TimerProgram → Prop where
  | program (k : Nat) (hk : k < nDiv) (hsmall : q / 2 ^ k ≤ 256) (hlarge : ∀ j, j < k → 256 < q / 2 ^ j) :
      EncoderAnswer nDiv q (.ok ⟨k, q / 2 ^ k - 1⟩)
  | tooLow (hlast : 256 < q / 2 ^ (nDiv - 1)) : EncoderAnswer nDiv q (.err .frequencyTooLow)

theorem computeTimerProgram_answer {nDiv f c : Nat} (hn : 1 ≤ nDiv) (hq : 1 ≤ c / (2 * f)) :
    EncoderAnswer nDiv (c / (2 * f)) (computeTimerProgram nDiv f c) := by
  have hf : f ≠ 0 := by
    rintro rfl
    simp at hq
  obtain ⟨k, hfound, hlarge, hend⟩ := advancePrescaler_spec (c / (2 * f)) (nDiv - 1) 0
  have hk := advancePrescaler_fst_le (nDiv - 1) 0 (c / (2 * f) / 2 ^ 0 - 1)
  rw [hfound] at hk
  simp only [pow_zero, Nat.div_one] at hfound
  simp only [computeTimerProgram, if_neg hf, if_neg (Nat.pos_iff_ne_zero.mp hq), hfound]
  split
  next hticks =>
    obtain rfl : k = nDiv - 1 := by omega
    exact .tooLow (by omega)
  next hticks => exact .program k (by omega) (by omega) fun j => hlarge j j.zero_le

/-- R112: a program is answered only where `2f` goes into `C`. -/
theorem quotient_pos_of_program {nDiv f c : Nat} {p : TimerProgram} (h : computeTimerProgram nDiv f c = .ok p) :
    1 ≤ c / (2 * f) := by
  refine Nat.pos_of_ne_zero fun hq => ?_
  simp only [computeTimerProgram, hq, if_true] at h
  split at h <;> cases h

/-- R114: a program the encoder answers is the one of the least index that brings the quotient within a byte's values. -/
theorem compareValue_of_program {nDiv f c : Nat} {p : TimerProgram} (hn : 1 ≤ nDiv)
    (h : computeTimerProgram nDiv f c = .ok p) :
    p.compareValue = c / (2 * f) / 2 ^ p.prescalerIndex - 1 ∧ c / (2 * f) / 2 ^ p.prescalerIndex ≤ 256
      ∧ ∀ j, j < p.prescalerIndex → 256 < c / (2 * f) / 2 ^ j := by
  have hanswer := computeTimerProgram_answer hn (quotient_pos_of_program h)
  rw [h] at hanswer
  cases hanswer with
  | program k hk hsmall hlarge => exact ⟨rfl, hsmall, hlarge⟩

/-! ## The obligations -/

/-- Settles O39: the answer's index is the only least one, and the last index's quotient is the smallest of all. -/
theorem encoderClosedForm : Obligations.EncoderClosedForm := by
  intro nDiv f c hn _ hq q
  have htooLow : 257 * 2 ^ (nDiv - 1) ≤ q ↔ 256 < q / 2 ^ (nDiv - 1) :=
    (Nat.le_div_iff_mul_le (Nat.two_pow_pos _)).symm
  rw [htooLow]
  have hanswer : EncoderAnswer nDiv q (computeTimerProgram nDiv f c) := computeTimerProgram_answer hn hq
  generalize computeTimerProgram nDiv f c = answer at hanswer
  cases hanswer with
  | program k hk hsmall hlarge =>
    have hlast : q / 2 ^ (nDiv - 1) ≤ q / 2 ^ k := div_two_pow_antitone q (by omega)
    refine ⟨fun i _ hi hleast => ?_, nofun, by omega⟩
    have hki : k ≤ i := Nat.le_of_not_lt fun hlt => (hlarge i hlt).not_ge hi
    have hik : i ≤ k := Nat.le_of_not_lt fun hlt => (hleast k hlt).not_ge hsmall
    rw [hik.antisymm hki]
  | tooLow hlast =>
    refine ⟨fun i hi hsmall _ => ?_, iff_of_true rfl hlast⟩
    have hlast' : q / 2 ^ (nDiv - 1) ≤ q / 2 ^ i := div_two_pow_antitone q (by omega)
    omega

/-- Settles O40: the compare value is one below the quotient, which is at most 256, at least 128 after a halving, and
above 256 before the answer's index. -/
theorem encoderProgramIsMinimalAndInRange : Obligations.EncoderProgramIsMinimalAndInRange := by
  intro nDiv f c p hn h
  obtain ⟨hcv, hsmall, hlarge⟩ := compareValue_of_program hn h
  refine ⟨prescalerIndex_lt hn h, by omega, fun hpos => ?_, fun j hj => ?_⟩
  · have := le_div_two_pow_of_pos hpos hlarge
    omega
  · have := hlarge j hj
    omega

/-- Settles O41: the half-period is the quotient rounded down to a multiple of `2 ^ i`. -/
theorem halfPeriodReconstructionForDoublingDividers : Obligations.HalfPeriodReconstructionForDoublingDividers := by
  intro p f a hdividers hn h q halfPeriod
  obtain ⟨hcv, -, hlarge⟩ := compareValue_of_program hn h
  have hpos : 1 ≤ q / 2 ^ a.prescalerIndex := div_two_pow_pos (quotient_pos_of_program h) hlarge
  have hhalf : halfPeriod = q / 2 ^ a.prescalerIndex * 2 ^ a.prescalerIndex := by
    simp only [halfPeriod, List.getD_eq_getElem?_getD, hdividers _ (prescalerIndex_lt hn h), Option.getD_some, hcv]
    rw [Nat.sub_add_cancel hpos]
  rw [hhalf]
  exact ⟨Nat.div_mul_le_self .., Nat.lt_div_mul_add (Nat.two_pow_pos _)⟩

/-- Settles O38: the first check of the encoder is on `f`, and a quotient of 0 fails its second. -/
theorem encoderRejectsZeroAndUnderflow : Obligations.EncoderRejectsZeroAndUnderflow := by
  refine fun nDiv f c => ⟨rfl, fun hf hlt => ?_⟩
  have hq : c / (2 * f) = 0 := Nat.div_eq_of_lt hlt
  simp [computeTimerProgram, Nat.pos_iff_ne_zero.mp hf, hq]

/-- Settles O42: the two equations of the toggle budget. -/
theorem toggleBudgetFormula : Obligations.ToggleBudgetFormula :=
  fun _ _ => ⟨rfl, rfl⟩

end Sys2Proof.Machine

/-! # The register commands and the global enable (spec/41_timer_controller.md R130 to R141)

`WR`, `SETB` and `CLRB` write `written keep set (regRead r s)` (`writeEffect_eq`, `setEffect_eq`, `clearEffect_eq`).
`regWrite_written_tmode` to `regWrite_written_tifr` say once, for each register, how such a write ends, and the three
commands' statements are read off them with their `keep` and `set`. -/

namespace Sys2Proof.Machine

/-! ## Words and bytes as numbers -/

/-- R81: `OP`, `REG` and `IMM8` at their places. -/
theorem packWord_eq_ofNat (op reg : BitVec 4) (imm : Byte) :
    packWord op reg imm = BitVec.ofNat 16 (op.toNat * 0x1000 + reg.toNat * 0x100 + imm.toNat) := by
  have hop := op.isLt
  have hreg := reg.isLt
  have himm := imm.isLt
  rw [packWord_eq_iff]
  simp only [← BitVec.toNat_inj, opField_toNat, regField_toNat, immField_toNat, BitVec.toNat_ofNat]
  omega

/-- R33: the reserved bits of `TMODE` are those above bit 1. -/
theorem and_reservedMask_tmode_ne_zero_iff (v : Byte) : v &&& reservedMask .tmode ≠ 0 ↔ 4 ≤ v.toNat := by
  revert v; decide

/-- R35: the reserved bits of `TPRESC` are those above bit 2. -/
theorem and_reservedMask_tpresc_ne_zero_iff (v : Byte) : v &&& reservedMask .tpresc ≠ 0 ↔ 8 ≤ v.toNat := by
  revert v; decide

/-- R37: all bits of `TIMSK` but bit 1 are reserved. -/
theorem and_reservedMask_timsk_ne_zero_iff (v : Byte) :
    v &&& reservedMask .timsk ≠ 0 ↔ v.toNat ≠ 0 ∧ v.toNat ≠ 2 := by
  revert v; decide

/-- R38: `TIFR` has the reserved bits of `TIMSK`. -/
theorem and_reservedMask_tifr_ne_zero_iff (v : Byte) :
    v &&& reservedMask .tifr ≠ 0 ↔ v.toNat ≠ 0 ∧ v.toNat ≠ 2 :=
  and_reservedMask_timsk_ne_zero_iff v

/-- Bit 1 of a byte with no other bit set. -/
theorem getLsbD_one_eq_decide {v : Byte} (hv : ¬ (v.toNat ≠ 0 ∧ v.toNat ≠ 2)) : v.getLsbD 1 = decide (v.toNat = 2) := by
  revert v; decide

/-- A field in the low bits of a register is written bit by bit. -/
theorem extractLsb'_written {n : Nat} (hn : n ≤ 8) (keep set : Byte) (field : BitVec n) :
    (written keep set (field.setWidth 8)).extractLsb' 0 n = field &&& keep.setWidth n ||| set.setWidth n := by
  unfold written
  ext i hi
  simp [hi, show i < 8 by omega]

theorem getLsbD_one_written (keep set : Byte) (b : Bool) :
    (written keep set (bit1Byte b)).getLsbD 1 = (b && keep.getLsbD 1 || set.getLsbD 1) := by
  cases b <;> simp [written, bit1Byte]

theorem and_setWidth_allOnes {n : Nat} (hn : n ≤ 8) (field : BitVec n) :
    field &&& (BitVec.allOnes 8).setWidth n = field := by
  ext i hi
  simp [show i < 8 by omega, -BitVec.reduceAllOnes]

/-! ## How a register write ends (R131) -/

section
variable (w : CmdWord) (keep set : Byte) (s : State)

theorem regWrite_written_tmode :
    regWrite w .tmode (written keep set (regRead .tmode s)) s
      = if 4 ≤ set.toNat then .error (.fault (.reservedBit w))
        else .ok { s with wgm := s.wgm &&& keep.setWidth 2 ||| set.setWidth 2 } := by
  rw [regWrite, written_regRead_and_reservedMask]
  simp only [and_reservedMask_tmode_ne_zero_iff, regRead, extractLsb'_written (show 2 ≤ 8 by decide)]

theorem regWrite_written_tpresc {k : BitVec 3} (hk : s.cs &&& keep.setWidth 3 ||| set.setWidth 3 = k) :
    regWrite w .tpresc (written keep set (regRead .tpresc s)) s
      = if 8 ≤ set.toNat then .error (.fault (.reservedBit w))
        else if s.params.nDiv < k.toNat then .error (.fault (.reservedPrescaler w))
        else .ok (selectPrescaler k s) := by
  rw [regWrite, written_regRead_and_reservedMask]
  simp only [and_reservedMask_tpresc_ne_zero_iff, regRead, extractLsb'_written (show 3 ≤ 8 by decide), hk]

theorem regWrite_written_tcmp :
    regWrite w .tcmp (written keep set (regRead .tcmp s)) s = .ok { s with ocr := written keep set s.ocr } :=
  if_neg (not_not.mpr BitVec.and_zero)

theorem regWrite_written_timsk :
    regWrite w .timsk (written keep set (regRead .timsk s)) s
      = if set.toNat ≠ 0 ∧ set.toNat ≠ 2 then .error (.fault (.reservedBit w))
        else .ok { s with ocie := s.ocie && keep.getLsbD 1 || set.getLsbD 1 } := by
  rw [regWrite, written_regRead_and_reservedMask]
  simp only [and_reservedMask_timsk_ne_zero_iff, regRead, getLsbD_one_written]

/-- A pending flag is cleared where the command keeps its bit as well as where it sets the bit. -/
theorem regWrite_written_tifr :
    regWrite w .tifr (written keep set (regRead .tifr s)) s
      = if set.toNat ≠ 0 ∧ set.toNat ≠ 2 then .error (.fault (.reservedBit w))
        else .ok { s with flag := s.flag && !(keep.getLsbD 1 || set.getLsbD 1) } := by
  have hflag : flagAfterTifrWrite (written keep set (bit1Byte s.flag)) s.flag
      = (s.flag && !(keep.getLsbD 1 || set.getLsbD 1)) := by
    rw [flagAfterTifrWrite, getLsbD_one_written]
    cases s.flag <;> rfl
  rw [regWrite, written_regRead_and_reservedMask]
  simp only [and_reservedMask_tifr_ne_zero_iff, regRead, hflag]

end

/-- A check of the data, settled where no fault stands: the check's fault, or what the rest of the write comes to. -/
theorem settle_check {s t : State} {c : Prop} [Decidable c] {r : Fault} {e : Effect} (hf : s.fault = none)
    (he : ¬ c → settle s e = .next t) :
    settle s (if c then .error (.fault r) else e) = .next (if c then { s with fault := some r } else t) := by
  split
  · simp [raiseFault, hf]
  next hc => exact he hc

/-! ## The obligations -/

/-- Settles O14: nothing of the old byte is kept, and within `TPRESC`'s three bits the select is the data byte. -/
theorem wrFollowsRegWrite : Obligations.WrFollowsRegWrite := by
  intro r v s hf w reservedBit
  have hw : encode (.wr r v) = w := packWord_eq_ofNat 0x1 ..
  rw [exec, execWr, writeEffect_eq, hw]
  cases r with
  | tmode =>
    rw [regWrite_written_tmode]
    exact settle_check hf fun _ => by simp
  | tpresc =>
    rw [regWrite_written_tpresc w 0 v s (k := BitVec.ofNat 3 v.toNat) (by simp)]
    refine settle_check hf fun hv => ?_
    have hk : (BitVec.ofNat 3 v.toNat).toNat = v.toNat := Nat.mod_eq_of_lt (Nat.lt_of_not_le hv)
    rw [hk]
    exact settle_check hf fun _ => rfl
  | tcmp =>
    rw [regWrite_written_tcmp]
    simp [written]
  | timsk =>
    rw [regWrite_written_timsk]
    refine settle_check hf fun hv => ?_
    rw [getLsbD_one_eq_decide hv]
    simp
  | tifr =>
    rw [regWrite_written_tifr]
    refine settle_check hf fun hv => ?_
    rw [getLsbD_one_eq_decide hv]
    simp [Bool.and_comm]

/-- Settles O16: all of the old byte is kept, so `TIFR`'s pending flag is written back as a 1 and cleared. -/
theorem setbWritesBackTheOr : Obligations.SetbWritesBackTheOr := by
  intro r m s hf w reservedBit
  have hw : encode (.setb r m) = w := packWord_eq_ofNat 0x3 ..
  rw [exec, execSetb, setEffect_eq, hw]
  cases r with
  | tmode =>
    rw [regWrite_written_tmode, and_setWidth_allOnes (by decide)]
    exact settle_check hf fun _ => by simp
  | tpresc =>
    have hk : s.cs &&& (BitVec.allOnes 8).setWidth 3 ||| m.setWidth 3 = s.cs ||| BitVec.ofNat 3 m.toNat := by
      rw [and_setWidth_allOnes (by decide), BitVec.ofNat_toNat]
    rw [regWrite_written_tpresc w _ m s hk]
    exact settle_check hf fun _ => settle_check hf fun _ => rfl
  | tcmp =>
    rw [regWrite_written_tcmp, written, BitVec.and_allOnes]
    rfl
  | timsk =>
    rw [regWrite_written_timsk]
    refine settle_check hf fun hv => ?_
    rw [getLsbD_one_eq_decide hv]
    simp
  | tifr =>
    rw [regWrite_written_tifr]
    exact settle_check hf fun _ => by simp

/-- Settles O17: no bit is set, so none that is reserved, and the select does not rise. -/
theorem clrbWritesBackTheAndNot : Obligations.ClrbWritesBackTheAndNot := by
  intro r m s hcs
  rw [exec, execClrb, clearEffect_eq]
  cases r with
  | tmode =>
    rw [regWrite_written_tmode]
    simp
  | tpresc =>
    have hle : (s.cs &&& ~~~(BitVec.ofNat 3 m.toNat)).toNat ≤ s.params.nDiv :=
      Nat.le_trans (BitVec.toNat_and .. ▸ Nat.and_le_left) hcs
    rw [regWrite_written_tpresc _ (~~~m) 0 s (k := s.cs &&& ~~~(BitVec.ofNat 3 m.toNat)) (by simp),
      if_neg (by decide), if_neg (Nat.not_lt.mpr hle)]
    rfl
  | tcmp =>
    rw [regWrite_written_tcmp]
    simp [written]
  | timsk =>
    rw [regWrite_written_timsk]
    simp
  | tifr =>
    rw [regWrite_written_tifr]
    simp

/-- Settles O15: `RD` hands over `regRead`, which reads a narrow field as its number. -/
theorem rdReturnsTheRegister : Obligations.RdReturnsTheRegister := by
  intro r s
  simp only [BitVec.ofNat_toNat]
  cases r <;> rfl

/-- Settles O20: `GIEW` is its one update. -/
theorem giewWritesTheGlobalEnable : Obligations.GiewWritesTheGlobalEnable := fun _ _ => rfl

/-- Settles O21: `GIER` hands over `bitByte` of the global enable. -/
theorem gierReturnsTheGlobalEnable : Obligations.GierReturnsTheGlobalEnable := fun _ => rfl

end Sys2Proof.Machine

/-! # The timer (spec/42_timer_counter.md R160 to R168)

The Timer's step has one equation per case (`timerStep_stopped` to `timerStep_match`). Before the next compare match, a
run of `n` Timer steps is a division of `phase + n` by the divider (`afterCycles`, `timerRun_beforeMatch`); the step
after the last of them is the match (`timerRun_match`), and both interval statements are read off the two lemmas. -/

namespace Sys2Proof.Machine

/-! ## One Timer step -/

/-- R164: the flag is set if `OCIE` or `LATCH_WHILE_MASKED`, and left otherwise. -/
theorem flagAfterMatch_eq_ite (s : State) :
    flagAfterMatch s = if s.ocie || s.params.latchWhileMasked then true else s.flag := by
  rw [flagAfterMatch, Bool.or_assoc]
  split
  next h => rw [h, Bool.or_true]
  next h => rw [Bool.eq_false_iff.mpr h, Bool.or_false]

section
variable {s : State}

theorem timerStep_stopped (hcs : s.cs = 0) : timerStep s = .next s := by
  rw [timerStep, timerEffect, if_pos hcs, settle_ok]

theorem timerStep_short (hcs : s.cs ≠ 0) (hd : s.phase + 1 ≠ divider s.params s.cs) :
    timerStep s = .next { s with phase := s.phase + 1 } := by
  rw [timerStep, timerEffect, if_neg hcs, if_neg hd, settle_ok]

/-- R162: the cycle that ends a prescaler period is a timer tick. -/
theorem timerStep_tick (hcs : s.cs ≠ 0) (hd : s.phase + 1 = divider s.params s.cs) :
    timerStep s = settle s (timerTick { s with phase := 0 }) := by
  rw [timerStep, timerEffect, if_neg hcs, if_pos hd]

/-- R166: a tick outside CTC has no meaning. -/
theorem timerStep_otherMode (hcs : s.cs ≠ 0) (hd : s.phase + 1 = divider s.params s.cs) (hwgm : s.wgm ≠ ctcMode) :
    timerStep s = .next (raiseFault (.unmodelledMode s.wgm) s) := by
  rw [timerStep_tick hcs hd, timerTick, if_pos hwgm, settle_error, recordStop_fault]

theorem timerStep_count (hcs : s.cs ≠ 0) (hd : s.phase + 1 = divider s.params s.cs) (hwgm : s.wgm = ctcMode)
    (hcnt : s.cnt ≠ s.ocr) : timerStep s = .next { s with phase := 0, cnt := s.cnt + 1 } := by
  rw [timerStep_tick hcs hd, timerTick, if_neg (not_not.mpr hwgm), if_neg hcnt, settle_ok]

theorem timerStep_match (hdue : matchIsDue s) :
    timerStep s = .next { s with phase := 0, cnt := 0, flag := flagAfterMatch s } := by
  obtain ⟨hwgm, hcs, hd, hcnt⟩ := hdue
  rw [timerStep_tick hcs hd, timerTick, if_neg (not_not.mpr hwgm), if_pos hcnt, settle_ok]
  rfl

end

/-- Settles O28: the step's equations for a stopped timer and for a cycle short of a tick. -/
theorem prescalerCountsSystemClocks : Obligations.PrescalerCountsSystemClocks :=
  fun _ => ⟨timerStep_stopped, timerStep_short⟩

/-- Settles O29: the step's three equations for a tick. -/
theorem timerTickCountsAndMatches : Obligations.TimerTickCountsAndMatches := by
  intro s hcs hd
  by_cases hwgm : s.wgm = 0b10
  · rw [if_neg (not_not.mpr hwgm)]
    by_cases hcnt : s.cnt = s.ocr
    · rw [timerStep_match ⟨hwgm, hcs, hd, hcnt⟩, if_pos hcnt, flagAfterMatch_eq_ite]
    · have hup : s.cnt + 1 = BitVec.ofNat 8 ((s.cnt.toNat + 1) % 256) := by
        apply BitVec.eq_of_toNat_eq
        simp
      rw [timerStep_count hcs hd hwgm hcnt, if_neg hcnt, hup]
  · rw [timerStep_otherMode hcs hd hwgm, if_pos hwgm, raiseFault]
    cases s.fault <;> rfl

/-! ## Timer steps in a row -/

theorem timerRun_of_step {s u : State} (n : Nat) (h : timerStep s = .next u) : timerRun (n + 1) s = timerRun n u := by
  rw [timerRun, h]

/-- A run of Timer steps can be taken from its other end. -/
theorem timerRun_succ {n : Nat} {s t : State} (h : timerRun n s = .next t) : timerRun (n + 1) s = timerStep t := by
  induction n generalizing s with
  | zero =>
    cases h
    obtain ⟨u, hu⟩ := settle_answers t (timerEffect t)
    exact (timerRun_of_step 0 hu).trans hu.symm
  | succ n ih =>
    obtain ⟨u, hu⟩ := settle_answers s (timerEffect s)
    rw [timerRun_of_step n hu] at h
    rw [timerRun_of_step (n + 1) hu]
    exact ih h

/-- A period of `d` is not over: the quotient stays and the remainder goes up. -/
theorem div_mod_succ_of_ne {x d : Nat} (hd : 0 < d) (h : x % d + 1 ≠ d) :
    (x + 1) / d = x / d ∧ (x + 1) % d = x % d + 1 := by
  have hlt := Nat.mod_lt x hd
  have hx := Nat.mod_add_div x d
  exact (Nat.div_mod_unique hd).mpr ⟨by omega, by omega⟩

/-- A period of `d` is over: the quotient goes up and the remainder starts again. -/
theorem div_mod_succ_of_eq {x d : Nat} (h : x % d + 1 = d) : (x + 1) / d = x / d + 1 ∧ (x + 1) % d = 0 := by
  have hx := Nat.mod_add_div x d
  exact (Nat.div_mod_unique (by omega)).mpr ⟨by rw [Nat.mul_succ]; omega, by omega⟩

/-- Where `n` cycles without a compare match take the timer (R162): `phase + n` is divided by the divider. -/
def afterCycles (n : Nat) (s : State) : State :=
  let d := divider s.params s.cs
  { s with cnt := s.cnt + BitVec.ofNat 8 ((s.phase + n) / d), phase := (s.phase + n) % d }

theorem ticksToMatch_pos (s : State) : 0 < ticksToMatch s := by
  unfold ticksToMatch
  split <;> exact Nat.succ_pos _

/-- R168: counting up mod 256, the counter first holds `OCR` one tick before the compare match. -/
theorem cnt_add_eq_ocr_iff {s : State} {k : Nat} (hk : k < ticksToMatch s) :
    s.cnt + BitVec.ofNat 8 k = s.ocr ↔ k + 1 = ticksToMatch s := by
  have hcnt := s.cnt.isLt
  have hocr := s.ocr.isLt
  rw [← BitVec.toNat_inj, BitVec.toNat_add, BitVec.toNat_ofNat]
  by_cases hle : s.cnt.toNat ≤ s.ocr.toNat
  · simp only [ticksToMatch, if_pos hle] at hk ⊢
    omega
  · simp only [ticksToMatch, if_neg hle] at hk ⊢
    omega

section
variable {s : State} (hwgm : s.wgm = ctcMode) (hcs : s.cs ≠ 0) (hphase : s.phase < divider s.params s.cs)
include hwgm hcs hphase

/-- A cycle after which the next compare match is still ahead. -/
theorem timerStep_afterCycles {n : Nat} (hn : s.phase + (n + 1) < ticksToMatch s * divider s.params s.cs) :
    timerStep (afterCycles n s) = .next (afterCycles (n + 1) s) := by
  have hd : 0 < divider s.params s.cs := Nat.zero_lt_of_lt hphase
  by_cases htick : (s.phase + n) % divider s.params s.cs + 1 = divider s.params s.cs
  · obtain ⟨hdiv, hmod⟩ := div_mod_succ_of_eq htick
    have hlt : (s.phase + n) / divider s.params s.cs + 1 < ticksToMatch s := by
      rw [← hdiv]
      exact Nat.div_lt_of_lt_mul (Nat.mul_comm .. ▸ hn)
    have hcnt : (afterCycles n s).cnt ≠ s.ocr := fun h => hlt.ne ((cnt_add_eq_ocr_iff (Nat.lt_of_succ_lt hlt)).mp h)
    rw [timerStep_count (s := afterCycles n s) hcs htick hwgm hcnt]
    simp [afterCycles, ← Nat.add_assoc, hdiv, hmod, BitVec.ofNat_add, BitVec.add_assoc]
  · obtain ⟨hdiv, hmod⟩ := div_mod_succ_of_ne hd htick
    rw [timerStep_short (s := afterCycles n s) hcs htick]
    simp [afterCycles, ← Nat.add_assoc, hdiv, hmod]

/-- R162, R168: before the next compare match, cycles only move the prescaler and the counter on. -/
theorem timerRun_beforeMatch {n : Nat} (hn : s.phase + n < ticksToMatch s * divider s.params s.cs) :
    timerRun n s = .next (afterCycles n s) := by
  induction n with
  | zero => simp [timerRun, afterCycles, Nat.div_eq_of_lt hphase, Nat.mod_eq_of_lt hphase]
  | succ n ih =>
    rw [timerRun_succ (ih (Nat.lt_of_succ_lt hn))]
    exact timerStep_afterCycles hwgm hcs hphase hn

/-- R168: at the last cycle of the last of `ticksToMatch` prescaler periods, the counter holds `OCR`. -/
theorem matchIsDue_afterCycles {n : Nat} (hn : s.phase + n + 1 = ticksToMatch s * divider s.params s.cs) :
    matchIsDue (afterCycles n s) := by
  obtain ⟨k, hk⟩ := Nat.exists_eq_succ_of_ne_zero (ticksToMatch_pos s).ne'
  rw [hk, Nat.succ_mul] at hn
  obtain ⟨hdiv, hmod⟩ : (s.phase + n) / divider s.params s.cs = k
      ∧ (s.phase + n) % divider s.params s.cs = divider s.params s.cs - 1 :=
    (Nat.div_mod_unique (Nat.zero_lt_of_lt hphase)).mpr ⟨by rw [Nat.mul_comm]; omega, by omega⟩
  have hend : (afterCycles n s).phase + 1 = divider s.params s.cs := by
    simp only [afterCycles, hmod]
    omega
  have hcnt : (afterCycles n s).cnt = s.ocr := by
    simp only [afterCycles, hdiv]
    exact (cnt_add_eq_ocr_iff (by omega)).mpr hk.symm
  exact ⟨hwgm, hcs, hend, hcnt⟩

/-- R168: the cycle that ends the last of `ticksToMatch` prescaler periods is the compare match. -/
theorem timerRun_match :
    timerRun (ticksToMatch s * divider s.params s.cs - s.phase) s
      = .next { s with cnt := 0, phase := 0, flag := flagAfterMatch s } := by
  have hahead : s.phase < ticksToMatch s * divider s.params s.cs :=
    hphase.trans_le (Nat.le_mul_of_pos_left _ (ticksToMatch_pos s))
  obtain ⟨n, hn⟩ := Nat.exists_eq_add_of_lt hahead
  have hcycles : ticksToMatch s * divider s.params s.cs - s.phase = n + 1 := by omega
  have hbefore := timerRun_beforeMatch hwgm hcs hphase (n := n) (by omega)
  rw [hcycles, timerRun_succ hbefore, timerStep_match (matchIsDue_afterCycles hwgm hcs hphase hn.symm)]
  rfl

end

/-- Settles O30: from a cleared counter the match is `OCR + 1` ticks away, and the count is the cycles' quotient. -/
theorem compareMatchIntervalIsExact : Obligations.CompareMatchIntervalIsExact := by
  intro s hwf hwgm hcs hle hcnt hphase d
  have hlt : s.phase < d := hphase ▸ divider_pos hwf hcs hle
  have hticks : ticksToMatch s = s.ocr.toNat + 1 := by simp [ticksToMatch, hcnt]
  refine ⟨fun n hn => ?_, ?_⟩
  · rw [timerRun_beforeMatch hwgm hcs hlt (by rwa [hticks, hphase, Nat.zero_add])]
    simp [afterCycles, hcnt, hphase, d]
  · have hmatch := timerRun_match hwgm hcs hlt
    rw [hticks, hphase, Nat.sub_zero] at hmatch
    simp [d, hmatch, flagAfterMatch, hcnt, hphase, Bool.or_assoc]

/-- Settles O31: the cycles before the match keep to `afterCycles`, and the last one is the match. -/
theorem firstCompareMatchAfterReprogramming : Obligations.FirstCompareMatchAfterReprogramming := by
  intro s _ hwgm hcs _ hphase cycles
  refine ⟨fun n hn => ⟨_, _, timerRun_beforeMatch hwgm hcs hphase (Nat.add_lt_of_lt_sub' hn)⟩, ?_⟩
  simp only [cycles, timerRun_match hwgm hcs hphase, flagAfterMatch, Bool.or_assoc]

end Sys2Proof.Machine

/-! # The pin commands (spec/43_gpio.md R180 to R185)

A pin command asks for the capability and nothing else: `pinEffect` has one equation with it and one without it, and
`PRD` likewise. -/

namespace Sys2Proof.Machine

/-- R251: the first refusal is recorded, and nothing else changes. -/
theorem refuse_of_unrefused (r : Refusal) {s : State} (hr : s.refused = none) :
    refuse r s = { s with refused := some r } := by
  rw [refuse, hr]

/-- R180 to R182: with the capability, the pin takes the level. -/
theorem pinEffect_of_capTaken (level : Bool) {s : State} (hcap : s.capTaken = true) :
    pinEffect level s = .ok { s with pin := level } :=
  if_pos hcap

/-- R185: without the capability, no level is given a meaning. -/
theorem pinEffect_of_not_capTaken (level : Bool) {s : State} (hcap : s.capTaken = false) :
    pinEffect level s = .error (.refusal .noCapability) :=
  if_neg (Bool.eq_false_iff.mp hcap)

/-- R185, R251: a pin write without the capability ends with the mark on the state it began with. -/
theorem settle_pinEffect_of_not_capTaken (level : Bool) {s : State} (hcap : s.capTaken = false)
    (hr : s.refused = none) : settle s (pinEffect level s) = .next { s with refused := some .noCapability } := by
  rw [pinEffect_of_not_capTaken level hcap, settle_error, recordStop_refusal, refuse_of_unrefused _ hr]

theorem execPrd_of_capTaken {s : State} (hcap : s.capTaken = true) :
    execPrd s = .next (handOver (bitByte s.pin) s) :=
  if_pos hcap

theorem execPrd_of_not_capTaken {s : State} (hcap : s.capTaken = false) :
    execPrd s = .next (refuse .pinUnspecified s) :=
  if_neg (Bool.eq_false_iff.mp hcap)

/-- Settles O23: each command settles `pinEffect` at its own level, which with the capability writes the pin alone. -/
theorem pinCommandsDriveThePin : Obligations.PinCommandsDriveThePin := by
  intro s hcap
  have hdrives (level : Bool) : settle s (pinEffect level s) = .next { s with pin := level } := by
    rw [pinEffect_of_capTaken level hcap, settle_ok]
  exact ⟨hdrives (!s.pin), hdrives true, hdrives false⟩

/-- Settles O24: `PRD` hands over `bitByte` of the pin. -/
theorem prdReturnsTheDrivenLevel : Obligations.PrdReturnsTheDrivenLevel :=
  fun _ => execPrd_of_capTaken

/-- Settles O25: the three writes stop at the capability and `PRD` at the pin that holds no value. -/
theorem pinCommandsBeforePinitAreRefused : Obligations.PinCommandsBeforePinitAreRefused := by
  intro s hcap hr
  have hstops (level : Bool) := settle_pinEffect_of_not_capTaken level hcap hr
  refine ⟨hstops (!s.pin), hstops true, hstops false, ?_⟩
  rw [exec, execPrd_of_not_capTaken hcap, refuse_of_unrefused _ hr]

end Sys2Proof.Machine

/-! # The interrupt handler and `is_active` (spec/44_toggle_handler.md R200 to R209, spec/60_exceptions.md R260 to R265,
spec/45_tone_api.md R228)

The Interrupt step has one equation per case (`interruptStep_of_active`, `interruptStep_of_not_active`,
`interruptStep_of_not_capTaken`). Along a run each step is quiet, a toggle or the terminal step, and each kind counts as
its name says (`ToneStep`); the statements on runs are inductions over these three kinds. That a fair run comes to its
handler steps is a descent on `cyclesToMatch`. -/

namespace Sys2Proof.Machine

/-! ## The handler's step -/

theorem isActive_eq_false_iff (b : Budget) : isActive b = false ↔ b = .finite 0 := by
  cases b <;> simp [isActive]

/-- R203, R204: what a toggle leaves of a budget. -/
def spend : Budget → Budget
  | .indefinite => .indefinite
  | .finite n => .finite (n - 1)

section
variable {s : State}

theorem handlerBody_of_active (hcap : s.capTaken = true) (hb : isActive s.budget = true) :
    handlerBody s = .ok { s with pin := !s.pin, budget := spend s.budget } := by
  unfold handlerBody handlerToggle
  rw [pinEffect_of_capTaken _ hcap]
  split
  next h => simp [h, spend]
  next n h => simp [h, spend]
  next h => simp [h, isActive] at hb

theorem handlerBody_of_not_active (hcap : s.capTaken = true) (hb : isActive s.budget = false) :
    handlerBody s = .ok { s with ocie := false, pin := false } := by
  have hmasked : ({ s with ocie := false } : State).capTaken = true := hcap
  have hbody : handlerBody s = handlerTerminal s := by rw [handlerBody, (isActive_eq_false_iff _).mp hb]
  rw [hbody, handlerTerminal, clearEffect_timsk_ocie, andThen_ok, pinEffect_of_capTaken _ hmasked]

/-- R207: every branch of the handler begins with a pin command, or comes to one that nothing before it can stop. -/
theorem handlerBody_of_not_capTaken (hcap : s.capTaken = false) :
    handlerBody s = .error (.refusal .noCapability) := by
  unfold handlerBody handlerToggle handlerTerminal
  split
  · exact pinEffect_of_not_capTaken _ hcap
  · rw [pinEffect_of_not_capTaken _ hcap, andThen_error]
  · rw [clearEffect_timsk_ocie, andThen_ok]
    exact pinEffect_of_not_capTaken _ hcap

/-- R262, R264: a delivered step ends with the `gie = 1` that its request had. -/
theorem interruptStep_of_body {t : State} (hirq : irqRequest s = true)
    (hbody : handlerBody (interruptEntry s) = .ok t) :
    interruptStep s = .next { t with gie := s.gie } := by
  obtain ⟨-, -, hgie⟩ := (irqRequest_iff s).mp hirq
  rw [interruptStep, hbody, andThen_ok, settle_ok, interruptExit, hgie]

/-- R203, R204: the delivered step of an ACTIVE tone. -/
theorem interruptStep_of_active (hcap : s.capTaken = true) (hirq : irqRequest s = true)
    (hb : isActive s.budget = true) :
    interruptStep s = .next { s with flag := false, pin := !s.pin, budget := spend s.budget } :=
  interruptStep_of_body hirq (handlerBody_of_active (s := interruptEntry s) hcap hb)

/-- R205: the delivered step of a tone at budget zero. -/
theorem interruptStep_of_not_active (hcap : s.capTaken = true) (hirq : irqRequest s = true)
    (hb : isActive s.budget = false) :
    interruptStep s = .next { s with flag := false, ocie := false, pin := false } :=
  interruptStep_of_body hirq (handlerBody_of_not_active (s := interruptEntry s) hcap hb)

/-- R207, R251: without the capability the step is refused. -/
theorem interruptStep_of_not_capTaken (hcap : s.capTaken = false) :
    interruptStep s = .next (refuse .noCapability s) := by
  rw [interruptStep, handlerBody_of_not_capTaken (s := interruptEntry s) hcap, andThen_error, settle_error,
    recordStop_refusal]

end

/-- Settles O32: both budgets are ACTIVE, and `spend` is what is left of each. -/
theorem handlerTogglesWhileActive : Obligations.HandlerTogglesWhileActive := by
  intro s hcap hirq
  refine ⟨fun hb => ?_, fun n hb => ?_⟩ <;>
    rw [interruptStep_of_active hcap hirq (by simp [hb, isActive])] <;> simp [hb, spend]

/-- Settles O33: a budget of zero is not ACTIVE. -/
theorem handlerTerminalBranchMasksAndForcesLow : Obligations.HandlerTerminalBranchMasksAndForcesLow :=
  fun _ hcap hirq hb => interruptStep_of_not_active hcap hirq ((isActive_eq_false_iff _).mpr hb)

/-- Settles O34: the refusal is the first one recorded. -/
theorem handlerWithoutCapabilityIsRefused : Obligations.HandlerWithoutCapabilityIsRefused := by
  intro s hcap hr
  rw [interruptStep_of_not_capTaken hcap, refuse_of_unrefused _ hr]

/-! ## The steps of a run, as the handler's counts see them -/

/-- The step at `k` of a run: no handler step, a handler step that toggles, or a terminal one. -/
inductive ToneStep (ρ : Nat → State) (σ : Nat → Agent) (k : Nat) : Prop where
  | quiet (hσ : σ k ≠ .interrupt) (htoggles : toggles ρ σ (k + 1) = toggles ρ σ k)
      (hterminals : terminals ρ σ (k + 1) = terminals ρ σ k)
  | toggles (hb : isActive (ρ k).budget = true)
      (ht : ρ (k + 1) = { ρ k with flag := false, pin := !(ρ k).pin, budget := spend (ρ k).budget })
      (htoggles : toggles ρ σ (k + 1) = toggles ρ σ k + 1) (hterminals : terminals ρ σ (k + 1) = terminals ρ σ k)
  | ends (hb : isActive (ρ k).budget = false)
      (ht : ρ (k + 1) = { ρ k with flag := false, ocie := false, pin := false })
      (htoggles : toggles ρ σ (k + 1) = toggles ρ σ k) (hterminals : terminals ρ σ (k + 1) = terminals ρ σ k + 1)

section
variable {ρ : Nat → State} {σ : Nat → Agent} {m n k : Nat}

theorem toggles_succ (ρ : Nat → State) (σ : Nat → Agent) (k : Nat) : toggles ρ σ (k + 1)
    = toggles ρ σ k + if σ k == .interrupt && isActive (ρ k).budget then 1 else 0 := by
  rw [toggles, List.range_succ, List.countP_append, List.countP_singleton, toggles]

theorem terminals_succ (ρ : Nat → State) (σ : Nat → Agent) (k : Nat) : terminals ρ σ (k + 1)
    = terminals ρ σ k + if σ k == .interrupt && !isActive (ρ k).budget then 1 else 0 := by
  rw [terminals, List.range_succ, List.countP_append, List.countP_singleton, terminals]

/-- R261: a handler step was requested. -/
theorem RunTo.interruptStep (hrun : RunTo ρ σ m) (hk : k < m) (hσ : σ k = .interrupt) :
    irqRequest (ρ k) = true ∧ interruptStep (ρ k) = .next (ρ (k + 1)) := by
  obtain ⟨hen, ht⟩ := hrun k hk
  rw [hσ] at hen ht
  simp only [enabled, Bool.and_eq_true] at hen
  exact ⟨hen.2, ht⟩

/-- A step that stops nothing is of one of the three kinds: a handler step has had the capability. -/
theorem RunTo.toneStep (hrun : RunTo ρ σ m) (hk : k < m) (hm : marked (ρ (k + 1)) = false) : ToneStep ρ σ k := by
  have htoggles := toggles_succ ρ σ k
  have hterminals := terminals_succ ρ σ k
  by_cases hσ : σ k = .interrupt
  · obtain ⟨hirq, hstep⟩ := hrun.interruptStep hk hσ
    have hcap : (ρ k).capTaken = true := by
      by_contra hcap
      rw [interruptStep_of_not_capTaken (Bool.eq_false_of_not_eq_true hcap)] at hstep
      rw [← Host.Outcome.next.inj hstep, ← recordStop_refusal, recordStop_marked] at hm
      cases hm
    cases hb : isActive (ρ k).budget with
    | true =>
      rw [interruptStep_of_active hcap hirq hb] at hstep
      exact .toggles hb (Host.Outcome.next.inj hstep).symm (by simpa [hσ, hb] using htoggles)
        (by simpa [hσ, hb] using hterminals)
    | false =>
      rw [interruptStep_of_not_active hcap hirq hb] at hstep
      exact .ends hb (Host.Outcome.next.inj hstep).symm (by simpa [hσ, hb] using htoggles)
        (by simpa [hσ, hb] using hterminals)
  · exact .quiet hσ (by simpa [hσ] using htoggles) (by simpa [hσ] using hterminals)

theorem RunTo.timerStep (hrun : RunTo ρ σ m) (hk : k < m) (hσ : σ k = .timer) :
    timerStep (ρ k) = .next (ρ (k + 1)) := by
  have ht := (hrun k hk).2
  rwa [hσ] at ht

/-- What Timer steps keep, and Mainline's steps here, quiet steps keep. -/
theorem RunTo.eq_of_quiet {α : Type} {f : State → α} (hrun : RunTo ρ σ m) (hk : k < m) (hσ : σ k ≠ .interrupt)
    (hmain : σ k = .mainline → f (ρ (k + 1)) = f (ρ k))
    (htimer : ∀ s t, Machine.timerStep s = .next t → f t = f s) : f (ρ (k + 1)) = f (ρ k) := by
  cases ha : σ k with
  | mainline => exact hmain ha
  | timer => exact htimer _ _ (hrun.timerStep hk ha)
  | interrupt => exact absurd ha hσ

/-- R206: without `OCIE` no handler step is requested. -/
theorem RunTo.ne_interrupt_of_masked (hrun : RunTo ρ σ m) (hk : k < m) (hocie : (ρ k).ocie = false) :
    σ k ≠ .interrupt := by
  intro hσ
  obtain ⟨-, hmask, -⟩ := (irqRequest_iff _).mp (hrun.interruptStep hk hσ).1
  rw [hocie] at hmask
  cases hmask

theorem timerStep_ocie (s t : State) (h : timerStep s = .next t) : t.ocie = s.ocie := by rw [timerStep_frame h]
theorem timerStep_budget (s t : State) (h : timerStep s = .next t) : t.budget = s.budget := by rw [timerStep_frame h]
theorem timerStep_pin (s t : State) (h : timerStep s = .next t) : t.pin = s.pin := by rw [timerStep_frame h]

/-- R206: steps of the other agents keep the interrupt masked, where Mainline leaves `OCIE`. -/
theorem RunTo.masked (hrun : RunTo ρ σ m)
    (hmain : ∀ k, k < m → σ k = .mainline → (ρ (k + 1)).ocie = (ρ k).ocie) (h0 : (ρ 0).ocie = false)
    (hk : k ≤ m) : (ρ k).ocie = false := by
  induction k with
  | zero => exact h0
  | succ k ih =>
    have hocie := ih (Nat.le_of_succ_le hk)
    have hquiet := hrun.ne_interrupt_of_masked hk hocie
    exact (hrun.eq_of_quiet hk hquiet (hmain k hk) timerStep_ocie).trans hocie

theorem RunTo.unmarked_of_le (hrun : RunTo ρ σ m) (hm : marked (ρ m) = false) (hk : k ≤ m) :
    marked (ρ k) = false := by
  rcases hk.lt_or_eq with hlt | rfl
  · exact hrun.unmarked hlt
  · exact hm

/-- R204, R205: where Mainline leaves the budget, each toggle takes one from it and nothing else does. -/
theorem RunTo.budget_of_toggles (hrun : RunTo ρ σ m) (hm : marked (ρ m) = false)
    (hmain : ∀ k, k < m → σ k = .mainline → (ρ (k + 1)).budget = (ρ k).budget) (h0 : (ρ 0).budget = .finite n)
    (hk : k ≤ m) : ∃ b, (ρ k).budget = .finite b ∧ toggles ρ σ k + b = n := by
  induction k with
  | zero => exact ⟨n, h0, Nat.zero_add n⟩
  | succ k ih =>
    obtain ⟨b, hbudget, hsum⟩ := ih (Nat.le_of_succ_le hk)
    cases hrun.toneStep hk (hrun.unmarked_of_le hm hk) with
    | quiet hσ htoggles =>
      exact ⟨b, (hrun.eq_of_quiet hk hσ (hmain k hk) timerStep_budget).trans hbudget, by rwa [htoggles]⟩
    | ends _ ht htoggles => exact ⟨b, by rw [ht]; exact hbudget, by rwa [htoggles]⟩
    | toggles hb ht htoggles =>
      have hpos : 0 < b := by simpa [hbudget, isActive] using hb
      exact ⟨b - 1, by rw [ht, hbudget, spend], by omega⟩

/-- R203, R204: where Mainline leaves the pin, each toggle inverts it, and until the terminal step nothing else does. -/
theorem RunTo.pin_of_toggles (hrun : RunTo ρ σ m) (hm : marked (ρ m) = false)
    (hmain : ∀ k, k < m → σ k = .mainline → (ρ (k + 1)).pin = (ρ k).pin) (hk : k ≤ m)
    (hterminals : terminals ρ σ k = 0) : (ρ k).pin = ((ρ 0).pin ^^ decide (toggles ρ σ k % 2 = 1)) := by
  induction k with
  | zero => simp [Machine.toggles]
  | succ k ih =>
    cases hrun.toneStep hk (hrun.unmarked_of_le hm hk) with
    | quiet hσ htoggles hsame =>
      rw [htoggles, ← ih (Nat.le_of_succ_le hk) (hsame ▸ hterminals)]
      exact hrun.eq_of_quiet hk hσ (hmain k hk) timerStep_pin
    | ends _ _ _ hone => omega
    | toggles _ ht htoggles hsame =>
      have hparity : decide ((toggles ρ σ k + 1) % 2 = 1) = !decide (toggles ρ σ k % 2 = 1) := by
        rw [← decide_not]
        exact decide_eq_decide.mpr (by omega)
      rw [ht, htoggles, hparity, ih (Nat.le_of_succ_le hk) (hsame ▸ hterminals), Bool.xor_not]

end

theorem leavesTimer.budget_eq {s t : State} (h : leavesTimer s t) : t.budget = s.budget := by
  obtain ⟨-, -, -, -, -, -, -, -, -, hbudget, -⟩ := h
  exact hbudget

/-- Settles O35: where Mainline does not step, the other agents keep the mask. -/
theorem maskedToneStaysDone : Obligations.MaskedToneStaysDone := by
  intro ρ σ m hrun hmain h0
  have hmasked {k : Nat} (hk : k ≤ m) : (ρ k).ocie = false :=
    hrun.masked (fun k hk hσ => absurd hσ (hmain k hk)) h0 hk
  exact ⟨fun k hk => hrun.ne_interrupt_of_masked hk (hmasked hk.le), hmasked le_rfl⟩

/-- Settles O36: the budget and the toggles add up to `n`, and the pin is the toggles' parity. -/
theorem toggleBudgetIsConserved : Obligations.ToggleBudgetIsConserved := by
  intro ρ σ m n hrun hmain hfault hrefused h0
  have hm := (marked_eq_false_iff _).mpr ⟨hfault, hrefused⟩
  obtain ⟨b, hbudget, hsum⟩ := hrun.budget_of_toggles hm (fun k hk hσ => (hmain k hk hσ).1.budget_eq) h0 le_rfl
  have hleft : n - toggles ρ σ m = b := by omega
  exact ⟨by omega, by rw [hbudget, hleft], hrun.pin_of_toggles hm (fun k hk hσ => (hmain k hk hσ).2) le_rfl⟩

/-! ## A fair run of a finite tone (R208) -/

/-- The tone sounds, with its handler able to run: the timer counts in CTC, the interrupt is unmasked and enabled, and
the capability is taken. -/
structure Armed (s : State) : Prop where
  ctc : s.wgm = ctcMode
  counting : s.cs ≠ 0
  phaseOk : s.phase < divider s.params s.cs
  unmasked : s.ocie = true
  enabled : s.gie = true
  capTaken : s.capTaken = true

/-- How many system clock cycles the next compare match is away (R162, R168). -/
def cyclesToMatch (s : State) : Nat := ticksToMatch s * divider s.params s.cs - s.phase

theorem ticksToMatch_count {s : State} (hcnt : s.cnt ≠ s.ocr) :
    ticksToMatch { s with phase := 0, cnt := s.cnt + 1 } + 1 = ticksToMatch s := by
  have hne : s.cnt.toNat ≠ s.ocr.toNat := fun h => hcnt (BitVec.eq_of_toNat_eq h)
  have hup : (s.cnt + 1).toNat = (s.cnt.toNat + 1) % 256 := by simp
  have hlt := s.cnt.isLt
  have hocr := s.ocr.isLt
  simp only [ticksToMatch, hup]
  split <;> split <;> omega

section
variable {s t : State}

/-- A step of an armed tone that is no handler step: either it sets the flag, or it leaves it and brings the next
compare match no further away. -/
structure Waits (s t : State) : Prop where
  armed : Armed t
  nearer : t.flag = true ∨ (t.flag = s.flag ∧ cyclesToMatch t ≤ cyclesToMatch s)

theorem Waits.flag_of_flag (h : Waits s t) (hflag : s.flag = true) : t.flag = true :=
  h.nearer.elim id fun hsame => hsame.1.trans hflag

/-- R162, R164: unmasked, a compare match sets the flag, and every cycle brings it nearer. -/
theorem Armed.timerStep_nearer (h : Armed s) (ht : timerStep s = .next t) :
    Armed t ∧ (t.flag = true ∨ (t.flag = s.flag ∧ cyclesToMatch t < cyclesToMatch s)) := by
  obtain ⟨hwgm, hcs, hphase, hocie, hgie, hcap⟩ := h
  have hticks := ticksToMatch_pos s
  by_cases hd : s.phase + 1 = divider s.params s.cs
  · have hdpos : 0 < divider s.params s.cs := by omega
    by_cases hcnt : s.cnt = s.ocr
    · rw [timerStep_match ⟨hwgm, hcs, hd, hcnt⟩] at ht
      cases ht
      exact ⟨⟨hwgm, hcs, hdpos, hocie, hgie, hcap⟩, .inl (by simp [flagAfterMatch, hocie])⟩
    · rw [timerStep_count hcs hd hwgm hcnt] at ht
      cases ht
      refine ⟨⟨hwgm, hcs, hdpos, hocie, hgie, hcap⟩, .inr ⟨rfl, ?_⟩⟩
      simp only [cyclesToMatch, ← ticksToMatch_count hcnt, Nat.succ_mul]
      omega
  · rw [timerStep_short hcs hd] at ht
    cases ht
    have hlt : s.phase + 1 < divider s.params s.cs := Nat.lt_of_le_of_ne hphase hd
    have hle : divider s.params s.cs ≤ ticksToMatch s * divider s.params s.cs := Nat.le_mul_of_pos_left _ hticks
    have hsame : ticksToMatch { s with phase := s.phase + 1 } = ticksToMatch s := rfl
    refine ⟨⟨hwgm, hcs, hlt, hocie, hgie, hcap⟩, .inr ⟨rfl, ?_⟩⟩
    simp only [cyclesToMatch, hsame]
    omega

theorem Armed.waits_of_leavesTimer (h : Armed s) (ht : leavesTimer s t) : Waits s t := by
  obtain ⟨hwgm, hcs, hphase, hocie, hgie, hcap⟩ := h
  obtain ⟨eparams, ewgm, ecs, eocr, eocie, eflag, ecnt, ephase, egie, -, ecap⟩ := ht
  refine ⟨⟨ewgm ▸ hwgm, ecs ▸ hcs, ?_, eocie ▸ hocie, egie ▸ hgie, ecap ▸ hcap⟩, .inr ⟨eflag, ?_⟩⟩
  · rwa [ephase, eparams, ecs]
  · simp only [cyclesToMatch, ticksToMatch, eparams, ecs, eocr, ecnt, ephase, le_refl]

end

/-- From the end of the tone on: one terminal step has run, and the interrupt is masked for good. -/
structure Ended (ρ : Nat → State) (σ : Nat → Agent) (k : Nat) : Prop where
  terminal : terminals ρ σ k = 1
  masked : (ρ k).ocie = false
  spent : (ρ k).budget = .finite 0
  pinLow : (∀ k, σ k = .mainline → (ρ (k + 1)).pin = (ρ k).pin) → (ρ k).pin = false

section
variable {ρ : Nat → State} {σ : Nat → Agent} {k b : Nat} (hrun : Run ρ σ)
  (hmain : ∀ k, σ k = .mainline → leavesTimer (ρ k) (ρ (k + 1)))
include hrun

theorem Run.unmarked (k : Nat) : marked (ρ k) = false := (hrun (k + 1)).unmarked k.lt_succ_self

theorem Run.toneStep (k : Nat) : ToneStep ρ σ k := (hrun (k + 1)).toneStep k.lt_succ_self (hrun.unmarked (k + 1))

include hmain

theorem Run.budget_of_quiet (hσ : σ k ≠ .interrupt) : (ρ (k + 1)).budget = (ρ k).budget :=
  (hrun (k + 1)).eq_of_quiet k.lt_succ_self hσ (fun h => (hmain k h).budget_eq) timerStep_budget

theorem Run.waits (harmed : Armed (ρ k)) (hσ : σ k ≠ .interrupt) : Waits (ρ k) (ρ (k + 1)) := by
  cases ha : σ k with
  | mainline => exact harmed.waits_of_leavesTimer (hmain k ha)
  | interrupt => exact absurd ha hσ
  | timer =>
    obtain ⟨harmed', hnear⟩ := harmed.timerStep_nearer ((hrun (k + 1)).timerStep k.lt_succ_self ha)
    exact ⟨harmed', hnear.imp_right fun h => ⟨h.1, h.2.le⟩⟩

/-- R160, R165: while the tone is armed and no handler step runs, Timer steps without end come to a compare match. -/
theorem Run.exists_flag (htimer : TimerFair σ) (hquiet : ∀ j, k ≤ j → Armed (ρ j) ∧ σ j ≠ .interrupt) :
    ∃ j, k ≤ j ∧ (ρ j).flag = true := by
  by_contra! hno
  have hnearer (i : Nat) : cyclesToMatch (ρ (k + i + 1)) ≤ cyclesToMatch (ρ (k + i)) := by
    obtain ⟨harmed, hσ⟩ := hquiet (k + i) (Nat.le_add_right ..)
    exact ((hrun.waits hmain harmed hσ).nearer.resolve_left (hno _ (by omega))).2
  obtain ⟨n, hn⟩ := WellFoundedLT.antitone_chain_condition
    (antitone_nat_of_succ_le (f := fun i => cyclesToMatch (ρ (k + i))) hnearer)
  obtain ⟨m, hm, hσ⟩ := htimer (k + n)
  have hstep := (hrun (m + 1)).timerStep m.lt_succ_self hσ
  obtain ⟨-, hflag | ⟨-, hlt⟩⟩ := (hquiet m (by omega)).1.timerStep_nearer hstep
  · exact hno _ (by omega) hflag
  · obtain ⟨i, rfl⟩ := Nat.exists_eq_add_of_le (show k ≤ m by omega)
    have hstays := (hn i (by omega)).symm.trans (hn (i + 1) (by omega))
    exact hlt.ne hstays.symm

/-- R160, R261: an armed tone comes to a handler step, with the budget it has and no terminal step on the way. -/
theorem Run.exists_handlerStep (htimer : TimerFair σ) (hirq : InterruptFair ρ σ) (harmed : Armed (ρ k)) :
    ∃ j, σ j = .interrupt ∧ Armed (ρ j) ∧ (ρ j).budget = (ρ k).budget ∧ terminals ρ σ j = terminals ρ σ k := by
  by_contra! hno
  have hkeeps (j : Nat) (hkj : k ≤ j) :
      Armed (ρ j) ∧ (ρ j).budget = (ρ k).budget ∧ terminals ρ σ j = terminals ρ σ k := by
    induction j, hkj using Nat.le_induction with
    | base => exact ⟨harmed, rfl, rfl⟩
    | succ j _ ih =>
      obtain ⟨harmed, hbudget, hterminals⟩ := ih
      have hσ : σ j ≠ .interrupt := fun h => hno j h harmed hbudget hterminals
      have hsame : terminals ρ σ (j + 1) = terminals ρ σ j := by simp [terminals_succ, hσ]
      exact ⟨(hrun.waits hmain harmed hσ).armed, (hrun.budget_of_quiet hmain hσ).trans hbudget, hsame.trans hterminals⟩
  have hquiet (j : Nat) (hkj : k ≤ j) : Armed (ρ j) ∧ σ j ≠ .interrupt := by
    obtain ⟨harmed, hbudget, hterminals⟩ := hkeeps j hkj
    exact ⟨harmed, fun h => hno j h harmed hbudget hterminals⟩
  obtain ⟨j, hkj, hflag⟩ := hrun.exists_flag hmain htimer hquiet
  have hflags (i : Nat) (hji : j ≤ i) : (ρ i).flag = true := by
    induction i, hji using Nat.le_induction with
    | base => exact hflag
    | succ i hji ih =>
      obtain ⟨harmed, hσ⟩ := hquiet i (hkj.trans hji)
      exact (hrun.waits hmain harmed hσ).flag_of_flag ih
  obtain ⟨i, hji, hσ⟩ := hirq j fun i hji => by
    have harmed := (hquiet i (hkj.trans hji)).1
    exact (irqRequest_iff _).mpr ⟨hflags i hji, harmed.unmasked, harmed.enabled⟩
  exact (hquiet i (hkj.trans hji)).2 hσ

/-- R208: an armed tone of budget `b` comes to its end, after `b` toggles and the terminal step. -/
theorem Run.exists_ended (htimer : TimerFair σ) (hirq : InterruptFair ρ σ) (harmed : Armed (ρ k))
    (hbudget : (ρ k).budget = .finite b) (hterminals : terminals ρ σ k = 0) : ∃ N, Ended ρ σ N := by
  induction b generalizing k with
  | zero =>
    obtain ⟨j, hσ, harmed, hsame, hnone⟩ := hrun.exists_handlerStep hmain htimer hirq harmed
    have hzero := hsame.trans hbudget
    cases hrun.toneStep j with
    | quiet hne => exact absurd hσ hne
    | toggles hb => simp [hzero, isActive] at hb
    | ends _ ht _ hone =>
      exact ⟨j + 1, by omega, by rw [ht], by rw [ht]; exact hzero, fun _ => by rw [ht]⟩
  | succ b ih =>
    obtain ⟨j, hσ, harmed, hsame, hnone⟩ := hrun.exists_handlerStep hmain htimer hirq harmed
    have hpos := hsame.trans hbudget
    cases hrun.toneStep j with
    | quiet hne => exact absurd hσ hne
    | ends hb => simp [hpos, isActive] at hb
    | toggles _ ht _ hkeep =>
      have harmed' : Armed (ρ (j + 1)) := by
        rw [ht]
        exact ⟨harmed.ctc, harmed.counting, harmed.phaseOk, harmed.unmasked, harmed.enabled, harmed.capTaken⟩
      exact ih harmed' (by rw [ht, hpos, spend, Nat.add_sub_cancel]) (by omega)

/-- R206: the end of the tone lasts. -/
theorem Ended.succ (h : Ended ρ σ k) : Ended ρ σ (k + 1) := by
  obtain ⟨hterminal, hmasked, hspent, hpin⟩ := h
  have hrun' := hrun (k + 1)
  have hlt := k.lt_succ_self
  have hσ := hrun'.ne_interrupt_of_masked hlt hmasked
  have hocie : σ k = .mainline → (ρ (k + 1)).ocie = (ρ k).ocie := fun h => by
    obtain ⟨-, -, -, -, hocie, -⟩ := hmain k h
    exact hocie
  refine ⟨?_, ?_, ?_, fun hleft => ?_⟩
  · simp [terminals_succ, hσ, hterminal]
  · exact (hrun'.eq_of_quiet hlt hσ hocie timerStep_ocie).trans hmasked
  · exact (hrun.budget_of_quiet hmain hσ).trans hspent
  · exact (hrun'.eq_of_quiet hlt hσ (hleft k) timerStep_pin).trans (hpin hleft)

end

/-- Settles O37: the armed tone comes to its end, which lasts, and the spent budget has gone into toggles. -/
theorem fairFiniteToneEndsAfterItsBudget : Obligations.FairFiniteToneEndsAfterItsBudget := by
  intro ρ σ n hrun htimer hirq hmain _ hwgm hcs hphase hocie hgie hcap h0
  obtain ⟨N, hend⟩ := hrun.exists_ended hmain htimer hirq ⟨hwgm, hcs, hphase, hocie, hgie, hcap⟩ h0 rfl
  refine ⟨N, fun m hm => ?_⟩
  obtain ⟨hterminal, hmasked, hspent, hpin⟩ : Ended ρ σ m :=
    Nat.le_induction hend (fun _ _ h => h.succ hrun hmain) m hm
  obtain ⟨b, hbudget, hsum⟩ := (hrun m).budget_of_toggles (hrun.unmarked m)
    (fun k _ h => (hmain k h).budget_eq) h0 le_rfl
  obtain rfl : 0 = b := Budget.finite.inj (hspent.symm.trans hbudget)
  have hσ := (hrun (m + 1)).ne_interrupt_of_masked m.lt_succ_self hmasked
  exact ⟨hsum, hterminal, hσ, hmasked, hspent, hpin⟩

/-! ## `is_active` (spec/45_tone_api.md R228) -/

/-- The call that Mainline's step runs, in progress or begun by it, takes its step. -/
theorem CallRuns.mainlineStep {s : State} {c : Call} (h : CallRuns s c) : mainlineStep s = callStep c s := by
  rcases h with hc | ⟨hc, it, hit, hb⟩
  · simp [Machine.mainlineStep, hc]
  · rw [mainlineStep_item hc hit]
    cases hb with
    | startTone hok => simp [itemStep, startToneStep, hok]
    | stopTone hcap => simp [itemStep, stopToneStep, hcap]
    | isActive hgate => simp [itemStep, isActiveStep, hgate]

theorem CallRuns.mainlineReady {s : State} {c : Call} (h : CallRuns s c) : mainlineReady s = true := by
  rcases h with hc | ⟨-, it, hit, -⟩
  · simp [Machine.mainlineReady, hc]
  · simp [Machine.mainlineReady, (List.getElem?_eq_some_iff.mp hit).1]

/-- At Mainline's turn, an operation of a call that nothing stops is followed by what is left of the call. -/
theorem step_of_callRuns {s u : State} {op : CallOp} {ops : List CallOp} {ret : Result} (hwf : s.params.wf = true)
    (hm : marked s = false) (hc : CallRuns s ⟨op :: ops, ret⟩) (hu : callOpStep op s = .next u)
    (hmu : marked u = false) :
    step { s with schedule := .mainline :: s.schedule } = .next (callContinue ops (retAfter op ret s) u) := by
  have hen : enabled .mainline s = true := by simp [enabled, hm, hc.mainlineReady]
  calc step { s with schedule := .mainline :: s.schedule } = Machine.mainlineStep s :=
        step_of_turn (s := { s with schedule := .mainline :: s.schedule }) hwf rfl hen
    _ = callStep ⟨op :: ops, ret⟩ s := hc.mainlineStep
    _ = .next (callContinue ops (retAfter op ret s) u) := by simp [callStep, hu, thenUnmarked_next, hmu]

theorem run_of_step {s t : State} (n : Nat) (h : step s = .next t) :
    Host.Core.run Sys2Proof.core (n + 1) s = Host.Core.run Sys2Proof.core n t := by
  have hcore : Sys2Proof.core.step s = .next t := h
  simp only [Host.Core.run, hcore]

/-- Inside a call, with the steps `ops` left of it, after its `s <- GIER`. -/
def insideCall (ops : List CallOp) (ret : Result) (gie : Bool) (schedule : List Agent) (s : State) : State :=
  { s with
    gie := gie, answer := none, held := s.gie :: s.held, call := some ⟨ops, ret⟩, schedule := schedule }

section
variable {s : State} {turns : List Agent} (hwf : s.params.wf = true) (hm : marked s = false)
include hwf hm

theorem step_insideCall {u : State} {op : CallOp} {ops : List CallOp} {ret : Result} {gie : Bool}
    (hu : callOpStep op (insideCall (op :: ops) ret gie turns s) = .next u) (hmu : marked u = false) :
    step (insideCall (op :: ops) ret gie (.mainline :: turns) s)
      = .next (callContinue ops (retAfter op ret (insideCall (op :: ops) ret gie turns s)) u) :=
  step_of_callRuns (s := insideCall (op :: ops) ret gie turns s) hwf hm (.inl rfl) hu hmu

/-- R220, R228: the first step of `is_active` saves `gie`. -/
theorem step_isActive_save (hc : s.call = none) (hit : s.script[s.mpos]? = some .isActive)
    (hgate : (s.params.gateIsActive && !s.capTaken) = false) (hs : s.schedule = .mainline :: turns) :
    step s = .next (insideCall [.cmd (.giew false), .readActive, .restore] (.active false) s.gie turns s) := by
  have hstep : step { s with schedule := .mainline :: turns } = _ :=
    step_of_callRuns (s := { s with schedule := turns }) hwf hm (.inr ⟨hc, .isActive, hit, .isActive hgate⟩)
      (saveGie_of_unmarked hm) hm
  rwa [← hs] at hstep

/-- R220: the second step of `is_active` clears `gie`. -/
theorem step_isActive_mask :
    step (insideCall [.cmd (.giew false), .readActive, .restore] (.active false) s.gie (.mainline :: turns) s)
      = .next (insideCall [.readActive, .restore] (.active false) false turns s) :=
  step_insideCall hwf hm
    (u := insideCall [.cmd (.giew false), .readActive, .restore] (.active false) false turns s) rfl hm

/-- R228: the third step of `is_active` reads the budget. -/
theorem step_isActive_read :
    step (insideCall [.readActive, .restore] (.active false) false (.mainline :: turns) s)
      = .next (insideCall [.restore] (.active (isActive s.budget)) false turns s) :=
  step_insideCall hwf hm (u := insideCall [.readActive, .restore] (.active false) false turns s) rfl hm

/-- R220, R228: the last step of `is_active` writes `gie` back and returns. -/
theorem step_isActive_restore {b : Bool} :
    step (insideCall [.restore] (.active b) false (.mainline :: turns) s)
      = .next { s with
          answer := none, call := none, mpos := s.mpos + 1, schedule := turns,
          results := s.results ++ [.active b] } := by
  have hu := restoreGie_of_held (s := insideCall [.restore] (.active b) false turns s) rfl
  exact step_insideCall (op := .restore) hwf hm hu hm

/-- R220, R228: `is_active` from its first step to its return. -/
theorem run_isActive (hc : s.call = none) (ha : s.answer = none) (hit : s.script[s.mpos]? = some .isActive)
    (hgate : (s.params.gateIsActive && !s.capTaken) = false) (hs : s.schedule = List.replicate 4 .mainline ++ turns) :
    Host.Core.run Sys2Proof.core 4 s = .next { s with
      mpos := s.mpos + 1, schedule := turns, results := s.results ++ [.active (isActive s.budget)] } := by
  calc Host.Core.run Sys2Proof.core 4 s
    _ = Host.Core.run Sys2Proof.core 3 (insideCall [.cmd (.giew false), .readActive, .restore] (.active false) s.gie
          (.mainline :: .mainline :: .mainline :: turns) s) :=
        run_of_step 3 (step_isActive_save hwf hm hc hit hgate hs)
    _ = Host.Core.run Sys2Proof.core 2 (insideCall [.readActive, .restore] (.active false) false
          (.mainline :: .mainline :: turns) s) := run_of_step 2 (step_isActive_mask hwf hm)
    _ = Host.Core.run Sys2Proof.core 1 (insideCall [.restore] (.active (isActive s.budget)) false
          (.mainline :: turns) s) := run_of_step 1 (step_isActive_read hwf hm)
    _ = .next { s with
          answer := none, call := none, mpos := s.mpos + 1, schedule := turns,
          results := s.results ++ [.active (isActive s.budget)] } := run_of_step 0 (step_isActive_restore hwf hm)
    _ = .next { s with
          mpos := s.mpos + 1, schedule := turns, results := s.results ++ [.active (isActive s.budget)] } := by
      rw [← hc, ← ha]

end

/-- Settles O48: with its gate open the call runs to its return; before `PINIT` a gated call is refused at once. -/
theorem isActiveReportsTheBudget : Obligations.IsActiveReportsTheBudget := by
  intro s hr hc hit
  refine ⟨fun rest hgate hwf hf ha hs => ?_, fun hcap hgated => ?_⟩
  · have hopen : (s.params.gateIsActive && !s.capTaken) = false := by
      rcases hgate with h | h <;> simp [h]
    exact run_isActive hwf ((marked_eq_false_iff s).mpr ⟨hf, hr⟩) hc ha hit hopen hs
  · rw [mainlineStep_item hc hit]
    simp [itemStep, isActiveStep, hcap, hgated, refuse_of_unrefused _ hr]

end Sys2Proof.Machine

/-! # The tone API (spec/45_tone_api.md R220 to R230)

Each command that a tone call issues has its equation (`callOpStep_mask` to `callOpStep_unmask`). A call that runs alone
is the chain of these, `BodyRuns`. A `start_tone` among other agents' steps is followed by `StartToneAt`, which counts
its steps and says what stands after each, and from its `WR TIFR` on by `ClearedSince`. -/

namespace Sys2Proof.Machine

/-! ## The checks of `start_tone` -/

/-- Settles O43: an error of the encoder is the answer of the checks, and ends the item. -/
theorem startToneErrorChangesNothing : Obligations.StartToneErrorChangesNothing := by
  intro s f dur e hc hit he
  rw [mainlineStep_item hc hit]
  simp [itemStep, startToneStep, startToneChecks, he, itemDone]

/-- R222, R251: a refusal that the checks answer is recorded, and nothing else changes. -/
theorem mainlineStep_startTone_of_refused {s : State} {f : Nat} {dur : Duration} {r : Refusal} (hc : s.call = none)
    (hr : s.refused = none) (hit : s.script[s.mpos]? = some (.startTone f dur))
    (h : startToneChecks f dur s = .refused r) : mainlineStep s = .next { s with refused := some r } := by
  rw [mainlineStep_item hc hit]
  simp [itemStep, startToneStep, h, refuse_of_unrefused _ hr]

/-- Settles O44: each check is reached where those before it pass, and its refusal is recorded. -/
theorem startToneRefusalsInOrder : Obligations.StartToneRefusalsInOrder := by
  intro s f dur hc hr hit
  have refuses {r : Refusal} (h : startToneChecks f dur s = .refused r) :=
    mainlineStep_startTone_of_refused hc hr hit h
  dsimp only
  refine ⟨fun r he => refuses ?_, fun p he => ⟨fun hd => refuses ?_, fun hd hcap => refuses ?_,
    fun b n hd hcap hn hb hlt => refuses ?_⟩⟩
  · simp [startToneChecks, he]
  · simp [startToneChecks, he, hd]
  · simp [startToneChecks, he, hd, hcap]
  · simp [startToneChecks, he, hd, hcap, hn, hb, hlt, budgetTooLarge]

/-! ## No step of a call stops it -/

/-- Nothing has been recorded: both marks are as before. -/
def KeepsMarks (s t : State) : Prop := t.fault = s.fault ∧ t.refused = s.refused

/-- R131: data with no reserved bit set, and with a legal select, are written. -/
theorem regWrite_answers_ok (w : CmdWord) {r : Reg} {v : Byte} {s : State} (hv : v &&& reservedMask r = 0)
    (hk : r = .tpresc → (v.extractLsb' 0 3).toNat ≤ s.params.nDiv) :
    ∃ t, regWrite w r v s = .ok t ∧ KeepsMarks s t := by
  rcases regWrite_cases w r v s with
    ⟨hbad, -⟩ | ⟨-, ⟨-, e⟩ | ⟨hr, hbad, -⟩ | ⟨-, -, e⟩ | ⟨-, e⟩ | ⟨-, e⟩ | ⟨-, e⟩⟩
  · exact absurd hv hbad
  · exact ⟨_, e, rfl, rfl⟩
  · exact absurd (hk hr) (Nat.not_le_of_lt hbad)
  · rw [selectPrescaler_frame] at e
    exact ⟨_, e, rfl, rfl⟩
  all_goals exact ⟨_, e, rfl, rfl⟩

/-- R135: `CLRB` sets no reserved bit and does not raise the select. -/
theorem clearEffect_answers_ok (r : Reg) (m : Byte) {s : State} (hcs : s.cs.toNat ≤ s.params.nDiv) :
    ∃ t, clearEffect r m s = .ok t ∧ KeepsMarks s t := by
  rw [clearEffect_eq]
  refine regWrite_answers_ok _ (by simp [written_regRead_and_reservedMask]) ?_
  rintro rfl
  rw [regRead, extractLsb'_written (by decide)]
  calc (s.cs &&& (~~~m).setWidth 3 ||| (0 : Byte).setWidth 3).toNat
    _ = s.cs.toNat &&& ((~~~m).setWidth 3).toNat := by simp
    _ ≤ s.cs.toNat := Nat.and_le_left
    _ ≤ s.params.nDiv := hcs

theorem pinEffect_answers_ok (level : Bool) {s : State} (hcap : s.capTaken = true) :
    ∃ t, pinEffect level s = .ok t ∧ KeepsMarks s t :=
  ⟨_, pinEffect_of_capTaken level hcap, rfl, rfl⟩

theorem KeepsMarks.of_settle {s t : State} {e : Effect} (he : ∃ u, e = .ok u ∧ KeepsMarks s u)
    (h : settle s e = .next t) : KeepsMarks s t := by
  obtain ⟨u, rfl, hu⟩ := he
  cases h
  exact hu

/-- A command of a call's body has legal data, and the capability where it drives the pin. -/
theorem exec_keepsMarks {i : Instr} {s t : State} (hcs : s.cs.toNat ≤ s.params.nDiv)
    (hok : bodyCommandOk s.params s.capTaken i = true) (h : exec i s = .next t) : KeepsMarks s t := by
  cases i with
  | wr r v =>
    simp only [bodyCommandOk, Bool.and_eq_true, Bool.or_eq_true, beq_iff_eq, bne_iff_ne, decide_eq_true_eq] at hok
    exact .of_settle (regWrite_answers_ok _ hok.1 fun hr => hok.2.resolve_left (not_not.mpr hr)) h
  | setb r m =>
    simp only [bodyCommandOk, Bool.and_eq_true, beq_iff_eq, bne_iff_ne] at hok
    rw [exec, execSetb, setEffect_eq] at h
    exact .of_settle
      (regWrite_answers_ok _ (by rw [written_regRead_and_reservedMask, hok.1]) fun hr => absurd hr hok.2) h
  | clrb r m => exact .of_settle (clearEffect_answers_ok r m hcs) h
  | ptog | pset | pclr => exact .of_settle (pinEffect_answers_ok _ hok) h
  | rd | prd | giew | gier => cases hok

theorem callOpStep_keepsMarks {op : CallOp} {s t : State} (hcs : s.cs.toNat ≤ s.params.nDiv)
    (hok : op = .cmd (.giew false) ∨ op = .restore ∨ bodyOpOk s.params s.capTaken op = true)
    (h : callOpStep op s = .next t) : KeepsMarks s t := by
  rcases hok with rfl | rfl | hok
  · cases h; exact ⟨rfl, rfl⟩
  · obtain ⟨b, held, draws, rfl⟩ := restoreGie_cases h
    exact ⟨rfl, rfl⟩
  · cases op with
    | cmd i => exact exec_keepsMarks hcs hok h
    | setBudget | readActive => cases h; exact ⟨rfl, rfl⟩
    | save | restore => cases hok

theorem callContinue_keepsMarks (rest : List CallOp) (ret : Result) (s : State) :
    KeepsMarks s (callContinue rest ret s) := by
  cases rest <;> exact ⟨rfl, rfl⟩

/-- The next step of a call in progress is its `GIEW 0`, its `CS_EXIT`, or one of its body. -/
theorem callOk_head {s : State} {op : CallOp} {rest : List CallOp} {ret : Result}
    (h : callOk s ⟨op :: rest, ret⟩ = true) :
    op = .cmd (.giew false) ∨ op = .restore ∨ bodyOpOk s.params s.capTaken op = true := by
  obtain ⟨-, ⟨rest', hops, -⟩ | ⟨hinside, -⟩⟩ := (callOk_iff ..).mp h
  · exact .inl (List.cons.inj hops).1
  · exact .inr ((insideSection_cons hinside).imp And.left And.left)

/-- Settles O55: of the steps a call has left, the next one is legal under the invariant, and so records no stop. -/
theorem callsInProgressNeverStop : Obligations.CallsInProgressNeverStop := by
  intro s hinv hsome
  obtain ⟨⟨ops, ret⟩, hc⟩ := Option.isSome_iff_exists.mp hsome
  obtain ⟨-, hok⟩ := hinv.callInScript _ hc
  rw [CallRuns.mainlineStep (.inl hc)]
  cases ops with
  | nil => simp [callOk_iff, insideSection] at hok
  | cons op rest =>
    obtain ⟨u, hu⟩ := callOpStep_answers op s
    obtain ⟨hfault, hrefused⟩ := callOpStep_keepsMarks hinv.selectOk (callOk_head hok) hu
    simp only [callStep, hu, thenUnmarked_next]
    split
    · exact ⟨u, rfl, hfault, hrefused⟩
    · obtain ⟨hfault', hrefused'⟩ := callContinue_keepsMarks rest (retAfter op ret s) u
      exact ⟨_, rfl, hfault'.trans hfault, hrefused'.trans hrefused⟩

/-! ## The operations of a tone call, one equation each (R97, R142 to R146, R223, R226) -/

section
variable {s : State}

theorem callOpStep_mask : callOpStep (.cmd (.clrb .timsk maskOCIE)) s = .next { s with ocie := false } := by
  rw [callOpStep, exec, execClrb, clearEffect_timsk_ocie, settle_ok]

theorem callOpStep_forceLow (hcap : s.capTaken = true) : callOpStep (.cmd .pclr) s = .next { s with pin := false } := by
  rw [callOpStep, exec, execPclr, pinEffect_of_capTaken _ hcap, settle_ok]

theorem callOpStep_ctc : callOpStep (.cmd (.wr .tmode maskCTC)) s = .next { s with wgm := ctcMode } := rfl

theorem callOpStep_compare (cv : Byte) : callOpStep (.cmd (.wr .tcmp cv)) s = .next { s with ocr := cv } := by
  simp [callOpStep, exec, execWr, writeEffect, regWrite, reservedMask]

/-- The select that `CS(i)` writes. -/
def selectOf (i : Nat) : BitVec 3 := (csValue i).extractLsb' 0 3

theorem selectOf_toNat {i : Nat} (hi : i < 7) : (selectOf i).toNat = i + 1 := by
  simp only [selectOf, csValue, BitVec.extractLsb'_toNat, BitVec.toNat_ofNat, Nat.shiftRight_zero]
  omega

theorem callOpStep_arm {i : Nat} (hi : i < s.params.nDiv) (hn : s.params.nDiv ≤ 7) :
    callOpStep (.cmd (.wr .tpresc (csValue i))) s = .next (selectPrescaler (selectOf i) s) := by
  obtain ⟨hv, hk⟩ := csValue_ok hi hn
  have hw (w : CmdWord) : regWrite w .tpresc (csValue i) s = .ok (selectPrescaler (selectOf i) s) := by
    unfold regWrite
    rw [if_neg (not_not.mpr hv)]
    exact if_neg (Nat.not_lt.mpr hk)
  rw [callOpStep, exec, execWr, writeEffect, hw, settle_ok]

theorem callOpStep_clearPending : callOpStep (.cmd (.wr .tifr maskOCF)) s = .next { s with flag := false } := by
  simp [callOpStep, exec, execWr, writeEffect, regWrite, reservedMask, maskOCF, flagAfterTifrWrite]

theorem callOpStep_unmask : callOpStep (.cmd (.setb .timsk maskOCIE)) s = .next { s with ocie := true } := by
  cases h : s.ocie <;>
    simp [callOpStep, exec, execSetb, setEffect, regWrite, regRead, h, bit1Byte, setBits, maskOCIE, reservedMask]

end

theorem selectPrescaler_insideCall (k : BitVec 3) (ops : List CallOp) (ret : Result) (gie : Bool) (turns : List Agent)
    (s : State) :
    selectPrescaler k (insideCall ops ret gie turns s) = insideCall ops ret gie turns (selectPrescaler k s) := by
  unfold selectPrescaler
  rw [apply_ite (insideCall ops ret gie turns)]
  rfl

theorem selectPrescaler_marked (k : BitVec 3) (s : State) : marked (selectPrescaler k s) = marked s := by
  rw [selectPrescaler_frame]
  rfl

/-! ## A call that runs alone -/

/-- Taken inside a call one after another, the operations `body` bring the state outside it from `s` to `t`, and none of
them stops or decides what the call returns. -/
inductive BodyRuns : List CallOp → State → State → Prop where
  | nil (s : State) : BodyRuns [] s s
  | cons {op : CallOp} {body : List CallOp} {s u t : State}
      (hop : ∀ ops ret turns,
        callOpStep op (insideCall ops ret false turns s) = .next (insideCall ops ret false turns u))
      (hrest : BodyRuns body u t) (hm : marked u = marked s := by rfl)
      (hret : ∀ ret x, retAfter op ret x = ret := by exact fun _ _ => rfl) :
      BodyRuns (op :: body) s t

/-- R220: `CS_EXIT` gives back `gie` and what was held, and the call returns. -/
theorem run_csExit {s : State} (hwf : s.params.wf = true) (hm : marked s = false) (ret : Result) (turns : List Agent) :
    Host.Core.run Sys2Proof.core 1 (insideCall csExit ret false (.mainline :: turns) s)
      = .next (callReturn ret { s with answer := none, schedule := turns }) := by
  have hu := restoreGie_of_held (s := insideCall csExit ret false turns s) rfl
  have hstep := step_insideCall (op := .restore) hwf hm hu hm
  exact run_of_step 0 hstep

theorem callContinue_insideCall (body ops : List CallOp) (ret ret' : Result) (gie : Bool) (turns : List Agent)
    (s : State) :
    callContinue (body ++ csExit) ret (insideCall ops ret' gie turns s)
      = insideCall (body ++ csExit) ret gie turns s := by
  cases body <;> rfl

/-- R220: the body of a call, and its `CS_EXIT`. -/
theorem BodyRuns.run {body : List CallOp} {s t : State} (h : BodyRuns body s t) (hwf : s.params.wf = true)
    (hm : marked s = false) (ret : Result) (turns : List Agent) :
    Host.Core.run Sys2Proof.core (body.length + 1)
        (insideCall (body ++ csExit) ret false (List.replicate (body.length + 1) .mainline ++ turns) s)
      = .next (callReturn ret { t with answer := none, schedule := turns }) := by
  induction h with
  | nil s => exact run_csExit hwf hm ret turns
  | @cons op body s u t hop _ hmu hret ih =>
    have hu := hop (op :: (body ++ csExit)) ret (List.replicate (body.length + 1) .mainline ++ turns)
    have hparams : u.params = s.params := (callOpStep_keepsProgram hu).params
    have hstep := step_insideCall hwf hm hu (hmu.trans hm)
    rw [hret, callContinue_insideCall] at hstep
    exact (run_of_step _ hstep).trans (ih (hparams ▸ hwf) (hmu.trans hm))

/-- A call's checks and its first step read no turn. -/
theorem CallRuns.withSchedule {s : State} {c : Call} (h : CallRuns s c) (turns : List Agent) :
    CallRuns { s with schedule := turns } c := by
  refine h.imp id fun ⟨hc, it, hit, hb⟩ => ⟨hc, it, hit, ?_⟩
  cases hb with
  | startTone hok => exact .startTone hok
  | stopTone hcap => exact .stopTone hcap
  | isActive hgate => exact .isActive hgate

/-- R220: the step that begins a call saves `gie`. -/
theorem step_call_save {s : State} {op : CallOp} {ops : List CallOp} {ret : Result} {turns : List Agent}
    (hwf : s.params.wf = true) (hm : marked s = false) (hc : CallRuns s ⟨.save :: op :: ops, ret⟩)
    (hs : s.schedule = .mainline :: turns) : step s = .next (insideCall (op :: ops) ret s.gie turns s) := by
  have hstep : step { s with schedule := .mainline :: turns } = _ :=
    step_of_callRuns (s := { s with schedule := turns }) hwf hm (hc.withSchedule turns) (saveGie_of_unmarked hm) hm
  rwa [← hs] at hstep

/-- R220: the second step of a call clears `gie`. -/
theorem step_call_mask {s : State} (hwf : s.params.wf = true) (hm : marked s = false) (body : List CallOp)
    (ret : Result) (turns : List Agent) :
    step (insideCall (.cmd (.giew false) :: (body ++ csExit)) ret s.gie (.mainline :: turns) s)
      = .next (insideCall (body ++ csExit) ret false turns s) := by
  have hstep := step_insideCall (u := insideCall (.cmd (.giew false) :: (body ++ csExit)) ret false turns s)
    (op := .cmd (.giew false)) (ops := body ++ csExit) (ret := ret) (gie := s.gie) (turns := turns) hwf hm rfl hm
  rwa [callContinue_insideCall] at hstep

/-- R220: a call that runs alone, from its `CS_ENTER` to its return. -/
theorem BodyRuns.run_call {body : List CallOp} {s t : State} {ret : Result} {turns : List Agent}
    (h : BodyRuns body s t) (hc : CallRuns s ⟨csEnter ++ body ++ csExit, ret⟩) (hwf : s.params.wf = true)
    (hm : marked s = false) (hs : s.schedule = List.replicate (body.length + 3) .mainline ++ turns)
    (hcall : t.call = none) (hanswer : t.answer = none) :
    Host.Core.run Sys2Proof.core (body.length + 3) s
      = .next { t with mpos := t.mpos + 1, results := t.results ++ [ret], schedule := turns } := by
  calc Host.Core.run Sys2Proof.core (body.length + 3) s
    _ = Host.Core.run Sys2Proof.core (body.length + 2) (insideCall (.cmd (.giew false) :: (body ++ csExit)) ret s.gie
          (List.replicate (body.length + 2) Agent.mainline ++ turns) s) :=
        run_of_step _ (step_call_save hwf hm hc hs)
    _ = Host.Core.run Sys2Proof.core (body.length + 1) (insideCall (body ++ csExit) ret false
          (List.replicate (body.length + 1) Agent.mainline ++ turns) s) :=
        run_of_step _ (step_call_mask hwf hm body ret _)
    _ = .next (callReturn ret { t with answer := none, schedule := turns }) := h.run hwf hm ret turns
    _ = .next { t with mpos := t.mpos + 1, results := t.results ++ [ret], schedule := turns } := by
      simp [callReturn, itemDone, hcall, hanswer]

/-! ## `start_tone` and `stop_tone`, run alone -/

theorem bodyRuns_stopTone {s : State} (hcap : s.capTaken = true) :
    BodyRuns stopToneBody s { s with ocie := false, pin := false, budget := .finite 0 } :=
  .cons (u := { s with ocie := false }) (fun _ _ _ => callOpStep_mask) <|
  .cons (u := { s with ocie := false, pin := false }) (fun _ _ _ => callOpStep_forceLow hcap) <|
  .cons (u := { s with ocie := false, pin := false, budget := .finite 0 }) (fun _ _ _ => rfl) <|
  .nil _

/-- Settles O47: the body masks the interrupt, forces the pin low and clears the budget. -/
theorem stopToneSilencesTheTone : Obligations.StopToneSilencesTheTone := by
  intro s rest hwf hf hr hc ha hcap hit hs
  have hruns : CallRuns s ⟨csEnter ++ stopToneBody ++ csExit, .stopped⟩ := .inr ⟨hc, _, hit, .stopTone hcap⟩
  exact (bodyRuns_stopTone hcap).run_call hruns hwf ((marked_eq_false_iff s).mpr ⟨hf, hr⟩) hs hc ha

/-- R223: what `start_tone` writes before the prescaler select. -/
def configured (cv : Byte) (s : State) : State :=
  { s with ocie := false, pin := false, wgm := ctcMode, ocr := cv }

/-- R223: what it writes after the prescaler select. -/
def started (b : Budget) (s : State) : State := { s with budget := b, flag := false, ocie := true }

/-- The registers written before the select do not bear on it. -/
theorem selectPrescaler_configured (k : BitVec 3) (cv : Byte) (s : State) :
    selectPrescaler k (configured cv s) = configured cv (selectPrescaler k s) := by
  unfold selectPrescaler
  rw [apply_ite (configured cv)]
  rfl

/-- R223: the body of `start_tone`. -/
theorem bodyRuns_startTone {s : State} {p : TimerProgram} (b : Budget) (hcap : s.capTaken = true)
    (hi : p.prescalerIndex < s.params.nDiv) (hn : s.params.nDiv ≤ 7) :
    BodyRuns (startToneBody p b) s
      (started b (configured (BitVec.ofNat 8 p.compareValue) (selectPrescaler (selectOf p.prescalerIndex) s))) := by
  rw [← selectPrescaler_configured]
  generalize hu : selectPrescaler (selectOf p.prescalerIndex) (configured (BitVec.ofNat 8 p.compareValue) s) = u
  have hmu : marked u = marked (configured (BitVec.ofNat 8 p.compareValue) s) := hu ▸ selectPrescaler_marked ..
  exact
    .cons (u := { s with ocie := false }) (fun _ _ _ => callOpStep_mask) <|
    .cons (u := { s with ocie := false, pin := false }) (fun _ _ _ => callOpStep_forceLow hcap) <|
    .cons (u := { s with ocie := false, pin := false, wgm := ctcMode }) (fun _ _ _ => callOpStep_ctc) <|
    .cons (u := configured (BitVec.ofNat 8 p.compareValue) s) (fun _ _ _ => callOpStep_compare _) <|
    .cons (u := u) (hm := hmu) (fun _ _ _ => by rw [← hu, ← selectPrescaler_insideCall]; exact callOpStep_arm hi hn) <|
    .cons (u := { u with budget := b }) (fun _ _ _ => rfl) <|
    .cons (u := { u with budget := b, flag := false }) (fun _ _ _ => callOpStep_clearPending) <|
    .cons (u := started b u) (fun _ _ _ => callOpStep_unmask) <|
    .nil _

/-- R110, R113: the program fits the fields it is written to. -/
theorem program_toNat {params : Params} {f : Nat} {p : TimerProgram} (hwf : params.wf = true)
    (h : computeTimerProgram params.nDiv f params.clockHz = .ok p) :
    (selectOf p.prescalerIndex).toNat = p.prescalerIndex + 1
      ∧ (BitVec.ofNat 8 p.compareValue).toNat = p.compareValue := by
  obtain ⟨hpos, hmax⟩ := nDiv_bounds hwf
  obtain ⟨hcv, hsmall, -⟩ := compareValue_of_program hpos h
  have hi := prescalerIndex_lt hpos h
  exact ⟨selectOf_toNat (by omega), by rw [BitVec.toNat_ofNat]; omega⟩

/-- R222: where the checks pass, Mainline's step begins the call. -/
theorem callRuns_startTone {s : State} {f : Nat} {dur : Duration} {p : TimerProgram} (hc : s.call = none)
    (hit : s.script[s.mpos]? = some (.startTone f dur))
    (hp : computeTimerProgram s.params.nDiv f s.params.clockHz = .ok p) (hd : dur ≠ .finite 0)
    (hcap : s.capTaken = true)
    (hmax : ∀ n m, computeToggleBudget f dur = .finite n → s.params.budgetMax = some m → n ≤ m) :
    CallRuns s ⟨startToneOps p (computeToggleBudget f dur), .started⟩ :=
  .inr ⟨hc, _, hit, .startTone ((startToneChecks_eq_ok_iff ..).mpr
    ⟨hp, hd, hcap, (budgetTooLarge_eq_false_iff ..).mpr hmax, rfl⟩)⟩

/-- Settles O45: the checks pass, and the body's writes are those of the statement. -/
theorem startToneArmsTheTone : Obligations.StartToneArmsTheTone := by
  intro s f dur p rest hwf hf hr hc ha hit hp hd hcap hmax hs
  obtain ⟨hpos, hmax7⟩ := nDiv_bounds hwf
  obtain ⟨hk, hcv⟩ := program_toNat hwf hp
  have hbody := bodyRuns_startTone (computeToggleBudget f dur) hcap (prescalerIndex_lt hpos hp) hmax7
  refine ⟨selectOf p.prescalerIndex, hk, BitVec.ofNat 8 p.compareValue, hcv, ?_⟩
  rw [selectPrescaler_frame] at hbody ⊢
  exact hbody.run_call (callRuns_startTone hc hit hp hd hcap hmax) hwf ((marked_eq_false_iff s).mpr ⟨hf, hr⟩) hs hc ha

/-! ## `start_tone` among the other agents' steps (R224, R229) -/

/-- A Timer step sets the flag only by a compare match. -/
theorem timerStep_flag {s t : State} (h : timerStep s = .next t) : t.flag = s.flag ∨ matchIsDue s := by
  by_cases hdue : matchIsDue s
  · exact .inr hdue
  left
  by_cases hcs : s.cs = 0
  · rw [timerStep_stopped hcs] at h
    cases h; rfl
  by_cases hd : s.phase + 1 = divider s.params s.cs
  · by_cases hwgm : s.wgm = ctcMode
    · rw [timerStep_count hcs hd hwgm fun hcnt => hdue ⟨hwgm, hcs, hd, hcnt⟩] at h
      cases h; rfl
    · rw [timerStep_otherMode hcs hd hwgm] at h
      cases h; rfl
  · rw [timerStep_short hcs hd] at h
    cases h; rfl

/-- An operation of a call that nothing stops is followed by what is left of the call. -/
theorem mainlineStep_of_callRuns {s u : State} {op : CallOp} {ops : List CallOp} {ret : Result}
    (hc : CallRuns s ⟨op :: ops, ret⟩) (hu : callOpStep op s = .next u) (hmu : marked u = false) :
    mainlineStep s = .next (callContinue ops (retAfter op ret s) u) := by
  rw [hc.mainlineStep]
  simp [callStep, hu, thenUnmarked_next, hmu]

theorem callContinue_of_ne_nil {rest : List CallOp} (h : rest ≠ []) (ret : Result) (s : State) :
    callContinue rest ret s = { s with call := some ⟨rest, ret⟩ } := by
  cases rest with
  | nil => exact absurd rfl h
  | cons op ops => rfl

/-- A call of `start_tone` that began at `s₀` has taken `n` of its eleven steps, and what they have written stands. The
steps are 1 `GIER`, 2 `GIEW 0`, 3 `CLRB TIMSK`, 4 `PCLR`, 5 `WR TMODE`, 6 `WR TCMP`, 7 `WR TPRESC`, 8 the budget,
9 `WR TIFR`, 10 `SETB TIMSK`, 11 `GIEW s` (R220, R223). -/
structure StartToneAt (s₀ : State) (p : TimerProgram) (b : Budget) (n : Nat) (s : State) : Prop where
  begun : 1 ≤ n
  unfinished : n ≤ 10
  call : s.call = some ⟨(startToneOps p b).drop n, .started⟩
  mpos : s.mpos = s₀.mpos
  held : s.held = s₀.gie :: s₀.held
  results : s.results = s₀.results
  params : s.params = s₀.params
  capTaken : s.capTaken = true
  gie : 2 ≤ n → s.gie = false
  pin : 4 ≤ n → s.pin = false
  wgm : 5 ≤ n → s.wgm = ctcMode
  ocr : 6 ≤ n → s.ocr = BitVec.ofNat 8 p.compareValue
  cs : 7 ≤ n → s.cs = selectOf p.prescalerIndex
  budget : 8 ≤ n → s.budget = b
  ocie : 10 ≤ n → s.ocie = true

section
variable {s₀ s t : State} {p : TimerProgram} {b : Budget} {n : Nat}

/-- R220: the first step. -/
theorem startToneAt_one (hm : marked s = false) (hc : CallRuns s ⟨startToneOps p b, .started⟩)
    (hcap : s.capTaken = true) (ht : mainlineStep s = .next t) : StartToneAt s p b 1 t := by
  rw [mainlineStep_of_callRuns (op := .save) hc (saveGie_of_unmarked hm) hm] at ht
  cases ht
  exact ⟨le_rfl, by omega, rfl, rfl, rfl, rfl, rfl, hcap, by omega, by omega, by omega, by omega, by omega, by omega,
    by omega⟩

/-- What the timer writes, and the flag, are no part of it. -/
theorem StartToneAt.timerStep (h : StartToneAt s₀ p b n s) (ht : timerStep s = .next t) : StartToneAt s₀ p b n t := by
  rw [timerStep_frame ht]
  exact ⟨h.begun, h.unfinished, h.call, h.mpos, h.held, h.results, h.params, h.capTaken, h.gie, h.pin, h.wgm, h.ocr,
    h.cs, h.budget, h.ocie⟩

/-- R71, R220: a handler step falls only between `GIER` and `GIEW 0`. -/
theorem StartToneAt.eq_one_of_irqRequest (h : StartToneAt s₀ p b n s) (hirq : irqRequest s = true) : n = 1 := by
  obtain ⟨-, -, hgie⟩ := (irqRequest_iff s).mp hirq
  have hbegun := h.begun
  by_contra hne
  rw [h.gie (by omega)] at hgie
  cases hgie

theorem StartToneAt.interruptStep (h : StartToneAt s₀ p b n s) (hirq : irqRequest s = true)
    (ht : interruptStep s = .next t) : StartToneAt s₀ p b n t := by
  obtain rfl := h.eq_one_of_irqRequest hirq
  have hkeeps := interruptStep_keepsProgram ht
  refine ⟨le_rfl, by omega, hkeeps.call.trans h.call, hkeeps.mpos.trans h.mpos, (interruptStep_held ht).trans h.held,
    ?_, hkeeps.params.trans h.params, hkeeps.capTaken.trans h.capTaken, ?_, ?_, ?_, ?_, ?_, ?_, ?_⟩
  case refine_1 =>
    rcases interruptStep_cases ht with ⟨x, rfl⟩ | ⟨pin, ocie, budget, rfl⟩
    · rw [recordStop_frame]; exact h.results
    · exact h.results
  all_goals omega

/-- R223: each of the steps up to the last writes its part, and only `WR TIFR` touches the flag. -/
theorem StartToneAt.mainlineStep (h : StartToneAt s₀ p b n s) (hlt : n < 10) (hm : marked s = false)
    (hi : p.prescalerIndex < s₀.params.nDiv) (hmax : s₀.params.nDiv ≤ 7) (ht : mainlineStep s = .next t) :
    StartToneAt s₀ p b (n + 1) t ∧ (n = 8 → t.flag = false) ∧ (n = 9 → t.flag = s.flag) := by
  obtain ⟨hbegun, -, hcall, hmpos, hheld, hresults, hparams, hcap, hgie, hpin, hwgm, hocr, hcs, hbudget, -⟩ := h
  have becomes {op : CallOp} {u : State} (hop : (startToneOps p b).drop n = op :: (startToneOps p b).drop (n + 1))
      (hret : retAfter op .started s = .started) (hu : callOpStep op s = .next u) (hmu : marked u = marked s) :
      t = { u with call := some ⟨(startToneOps p b).drop (n + 1), .started⟩ } := by
    have hleft : (startToneOps p b).drop (n + 1) ≠ [] := fun hnil => by
      have hlen : 11 ≤ n + 1 := List.drop_eq_nil_iff.mp hnil
      omega
    rw [hop] at hcall
    rw [mainlineStep_of_callRuns (.inl hcall) hu (hmu.trans hm), hret, callContinue_of_ne_nil hleft] at ht
    exact (Host.Outcome.next.inj ht).symm
  rw [← hparams] at hi hmax
  have harm := callOpStep_arm hi hmax
  rw [selectPrescaler_frame] at harm
  interval_cases n
  on_goal 1 => obtain rfl := becomes (op := .cmd (.giew false)) rfl rfl rfl rfl
  on_goal 2 => obtain rfl := becomes rfl rfl callOpStep_mask rfl
  on_goal 3 => obtain rfl := becomes rfl rfl (callOpStep_forceLow hcap) rfl
  on_goal 4 => obtain rfl := becomes rfl rfl callOpStep_ctc rfl
  on_goal 5 => obtain rfl := becomes rfl rfl (callOpStep_compare _) rfl
  on_goal 6 => obtain rfl := becomes rfl rfl harm rfl
  on_goal 7 => obtain rfl := becomes (op := .setBudget b) rfl rfl rfl rfl
  on_goal 8 => obtain rfl := becomes rfl rfl callOpStep_clearPending rfl
  on_goal 9 => obtain rfl := becomes rfl rfl callOpStep_unmask rfl
  all_goals
    exact ⟨⟨by omega, by omega, rfl, hmpos, hheld, hresults, hparams, hcap, by simp [hgie], by simp [hpin],
      by simp [hwgm], by simp [hocr], by simp [hcs], by simp [hbudget], by simp⟩, by simp, by simp⟩

/-- R220: the last step gives back `gie` and what was held, and returns. -/
theorem StartToneAt.mainlineStep_last (h : StartToneAt s₀ p b 10 s) (hm : marked s = false)
    (ht : Machine.mainlineStep s = .next t) :
    t = { s with
      gie := s₀.gie, held := s₀.held, call := none, mpos := s.mpos + 1, results := s.results ++ [.started] } := by
  rw [mainlineStep_of_callRuns (op := .restore) (.inl h.call) (restoreGie_of_held h.held) hm] at ht
  exact (Host.Outcome.next.inj ht).symm

end

/-- The timer holds the encoder's program `p`. -/
def HoldsProgram (p : TimerProgram) (s : State) : Prop :=
  s.wgm = ctcMode ∧ s.ocr.toNat = p.compareValue ∧ s.cs.toNat = p.prescalerIndex + 1

/-- Step `c` is the `WR TIFR` of `start_tone`: from then up to `k` the timer has held the program, no handler step has
run, and the flag is set only by a match that was due. -/
structure ClearedSince (ρ : Nat → State) (σ : Nat → Agent) (p : TimerProgram) (c k : Nat) : Prop where
  before : c < k
  mainline : σ c = .mainline
  clears : callCommandNext (ρ c) (.wr .tifr maskOCF)
  cleared : (ρ (c + 1)).flag = false
  quiet : ∀ j, c < j → j < k → HoldsProgram p (ρ j) ∧ σ j ≠ .interrupt
  fresh : (ρ k).flag = true → ∃ j, c < j ∧ j < k ∧ σ j = .timer ∧ matchIsDue (ρ j)

section
variable {ρ : Nat → State} {σ : Nat → Agent} {p : TimerProgram} {b : Budget} {c k m n : Nat}

theorem ClearedSince.succ (h : ClearedSince ρ σ p c k) (hp : HoldsProgram p (ρ k)) (hσ : σ k ≠ .interrupt)
    (hflag : (ρ (k + 1)).flag = (ρ k).flag ∨ (σ k = .timer ∧ matchIsDue (ρ k))) : ClearedSince ρ σ p c (k + 1) where
  before := Nat.lt_succ_of_lt h.before
  mainline := h.mainline
  clears := h.clears
  cleared := h.cleared
  quiet j hcj hj := by
    rcases Nat.lt_succ_iff_lt_or_eq.mp hj with hlt | rfl
    · exact h.quiet j hcj hlt
    · exact ⟨hp, hσ⟩
  fresh hset := by
    rcases hflag with hkeep | ⟨htimer, hdue⟩
    · obtain ⟨j, hcj, hjk, hj⟩ := h.fresh (hkeep ▸ hset)
      exact ⟨j, hcj, Nat.lt_succ_of_lt hjk, hj⟩
    · exact ⟨k, h.before, k.lt_succ_self, htimer, hdue⟩

theorem StartToneAt.holdsProgram {s₀ s : State} {f : Nat} (h : StartToneAt s₀ p b n s) (hn : 9 ≤ n)
    (hwf : s₀.params.wf = true) (hp : computeTimerProgram s₀.params.nDiv f s₀.params.clockHz = .ok p) :
    HoldsProgram p s := by
  obtain ⟨hk, hcv⟩ := program_toNat hwf hp
  exact ⟨h.wgm (by omega), h.ocr (by omega) ▸ hcv, h.cs (by omega) ▸ hk⟩

/-- A run is inside a call of `start_tone` at `k`, with `n` of its steps taken. -/
structure RunsStartTone (ρ : Nat → State) (σ : Nat → Agent) (p : TimerProgram) (b : Budget) (n k : Nat) : Prop where
  inCall : StartToneAt (ρ 0) p b n (ρ k)
  cleared : 9 ≤ n → ∃ c, ClearedSince ρ σ p c k

variable {f : Nat} (hwf : (ρ 0).params.wf = true)
  (hp : computeTimerProgram (ρ 0).params.nDiv f (ρ 0).params.clockHz = .ok p)
include hwf hp

/-- A step of Mainline but the last takes the call one step on. -/
theorem RunsStartTone.mainline (h : RunsStartTone ρ σ p b n k) (hn : n < 10) (hrun : RunTo ρ σ (k + 1))
    (hσ : σ k = .mainline) : RunsStartTone ρ σ p b (n + 1) (k + 1) := by
  obtain ⟨hpos, hmax⟩ := nDiv_bounds hwf
  obtain ⟨hat, hclears, hkeeps⟩ := h.inCall.mainlineStep hn (hrun.unmarked k.lt_succ_self)
    (prescalerIndex_lt hpos hp) hmax (hrun.mainlineStep k.lt_succ_self hσ)
  refine ⟨hat, fun h9 => ?_⟩
  obtain rfl | rfl : n = 8 ∨ n = 9 := by omega
  · have hnext : callCommandNext (ρ k) (.wr .tifr maskOCF) := by rw [callCommandNext, h.inCall.call]; rfl
    exact ⟨k, k.lt_succ_self, hσ, hnext, hclears rfl, by omega, by simp [hclears rfl]⟩
  · obtain ⟨c, hc⟩ := h.cleared le_rfl
    exact ⟨c, hc.succ (h.inCall.holdsProgram le_rfl hwf hp) (by simp [hσ]) (.inl (hkeeps rfl))⟩

/-- A step of another agent leaves the call where it is. -/
theorem RunsStartTone.other (h : RunsStartTone ρ σ p b n k) (hrun : RunTo ρ σ (k + 1)) (hσ : σ k ≠ .mainline) :
    RunsStartTone ρ σ p b n (k + 1) := by
  cases ha : σ k with
  | mainline => exact absurd ha hσ
  | timer =>
    have ht := hrun.timerStep k.lt_succ_self ha
    refine ⟨h.inCall.timerStep ht, fun h9 => ?_⟩
    obtain ⟨c, hc⟩ := h.cleared h9
    have hflag := (timerStep_flag ht).imp_right fun hdue => And.intro ha hdue
    exact ⟨c, hc.succ (h.inCall.holdsProgram h9 hwf hp) (by simp [ha]) hflag⟩
  | interrupt =>
    obtain ⟨hirq, ht⟩ := hrun.interruptStep k.lt_succ_self ha
    have hone := h.inCall.eq_one_of_irqRequest hirq
    exact ⟨h.inCall.interruptStep hirq ht, by omega⟩

/-- As long as `mpos` stays, the call is in progress. -/
theorem RunTo.runsStartTone (hrun : RunTo ρ σ m) (h1 : StartToneAt (ρ 0) p b 1 (ρ 1))
    (hmpos : ∀ k, k ≤ m → (ρ k).mpos = (ρ 0).mpos) (hk1 : 1 ≤ k) (hk : k ≤ m) :
    ∃ n, RunsStartTone ρ σ p b n k := by
  induction k, hk1 using Nat.le_induction with
  | base => exact ⟨1, h1, by omega⟩
  | succ k _ ih =>
    obtain ⟨n, h⟩ := ih (Nat.le_of_succ_le hk)
    have hrun' : RunTo ρ σ (k + 1) := fun j hj => hrun j (Nat.lt_of_lt_of_le hj hk)
    by_cases hσ : σ k = .mainline
    · have hn : n ≠ 10 := by
        rintro rfl
        have hlast := h.inCall.mainlineStep_last (hrun.unmarked hk) (hrun.mainlineStep hk hσ)
        have hmoved : (ρ (k + 1)).mpos = (ρ k).mpos + 1 := by rw [hlast]
        rw [hmpos (k + 1) hk, hmpos k (Nat.le_of_succ_le hk)] at hmoved
        exact Nat.succ_ne_self _ hmoved.symm
      exact ⟨n + 1, h.mainline hwf hp (Nat.lt_of_le_of_ne h.inCall.unfinished hn) hrun' hσ⟩
    · exact ⟨n, h.other hwf hp hrun' hσ⟩

/-- Where `mpos` advances, the call takes its last step. -/
theorem RunsStartTone.last_of_mpos (h : RunsStartTone ρ σ p b n m) (hrun : RunTo ρ σ (m + 1))
    (hdone : (ρ (m + 1)).mpos = (ρ 0).mpos + 1) : n = 10 ∧ σ m = .mainline := by
  have hmoved {n' : Nat} (h' : RunsStartTone ρ σ p b n' (m + 1)) : False :=
    Nat.succ_ne_self _ (hdone.symm.trans h'.inCall.mpos)
  have hσ : σ m = .mainline := by
    by_contra hσ
    exact hmoved (h.other hwf hp hrun hσ)
  refine ⟨?_, hσ⟩
  by_contra hn
  exact hmoved (h.mainline hwf hp (Nat.lt_of_le_of_ne h.inCall.unfinished hn) hrun hσ)

end

/-- Settles O46: the call is followed step by step to its last, and the flag from its `WR TIFR` on. -/
theorem startTonePostconditionsUnderAnyInterleaving : Obligations.StartTonePostconditionsUnderAnyInterleaving := by
  intro ρ σ m f dur p hrun hinv hcall hit hp hd hcap hmax hσ hmpos hdone
  have hwf := hinv.instanceOk
  have hfirst := startToneAt_one (hrun.unmarked m.succ_pos) (callRuns_startTone hcall hit hp hd hcap hmax) hcap
    (hrun.mainlineStep m.succ_pos hσ)
  have hm : 1 ≤ m := Nat.pos_of_ne_zero fun hm => by
    subst hm
    exact Nat.succ_ne_self _ (hdone.symm.trans hfirst.mpos)
  have hrun' : RunTo ρ σ m := fun j hj => hrun j (Nat.lt_succ_of_lt hj)
  obtain ⟨n, hruns⟩ := hrun'.runsStartTone hwf hp hfirst hmpos hm le_rfl
  obtain ⟨rfl, hσm⟩ := hruns.last_of_mpos hwf hp hrun hdone
  have hat := hruns.inCall
  have hlast := hat.mainlineStep_last (hrun.unmarked m.lt_succ_self) (hrun.mainlineStep m.lt_succ_self hσm)
  have hprogram := hat.holdsProgram (by decide) hwf hp
  obtain ⟨c, hc⟩ := hruns.cleared (by decide)
  have hcleared := hc.succ hprogram (by simp [hσm]) (.inl (by rw [hlast]))
  obtain ⟨hwgm, hocr, hcs⟩ := hprogram
  refine ⟨?_, ?_, ?_, ?_, ?_, ?_, ?_, ?_, ?_, ?_, c, Nat.le_of_lt_succ hcleared.before, hcleared.mainline,
    hcleared.clears, hcleared.cleared, fun k hck hkm => ?_, fun hflag => ?_⟩
  case refine_11 =>
    obtain ⟨⟨hwgm, hocr, hcs⟩, hquiet⟩ := hcleared.quiet k hck (Nat.lt_succ_of_le hkm)
    exact ⟨hwgm, hocr, hcs, hquiet⟩
  case refine_12 =>
    obtain ⟨k, hck, hkm, hk⟩ := hcleared.fresh hflag
    exact ⟨k, hck, Nat.le_of_lt_succ hkm, hk⟩
  all_goals rw [hlast]
  · exact hwgm
  · exact hocr
  · exact hcs
  · exact hat.budget (by decide)
  · exact hat.ocie (by decide)
  · exact hat.pin (by decide)
  · exact congrArg (· ++ _) hat.results

end Sys2Proof.Machine

/-! # A stopped machine, and which agent goes first (spec/60_exceptions.md R250, R251, R266, R291) -/

namespace Sys2Proof.Machine

/-- R250, R251: an agent is enabled only where nothing has stopped the run. -/
theorem enabled_of_marked {s : State} (hm : marked s = true) (a : Agent) : enabled a s = false := by
  simp [enabled, hm]

theorem marked_of_fault {s : State} {r : Fault} (hf : s.fault = some r) : marked s = true := by
  simp [marked, hf]

theorem marked_of_refused {s : State} {r : Refusal} (hr : s.refused = some r) : marked s = true := by
  simp [marked, hr]

/-- R250: a recorded fault is the answer, whatever refusal is recorded beside it. -/
theorem step_of_fault {s : State} {r : Fault} (hf : s.fault = some r) : step s = .fault r := by
  simp [step, machineStep, hf]

/-- R251, R291: a recorded refusal is the answer where no fault is recorded. -/
theorem step_of_refused {s : State} {r : Refusal} (hf : s.fault = none) (hr : s.refused = some r) :
    step s = .refused r := by
  simp [step, machineStep, hf, hr]

/-- Settles O9: either mark is the step's answer, and either disables every agent. -/
theorem stoppedMachineHasNoStep : Obligations.StoppedMachineHasNoStep := by
  intro s
  constructor
  · intro r hf
    exact ⟨step_of_fault hf, enabled_of_marked (marked_of_fault hf)⟩
  · intro r hf hr
    exact ⟨step_of_refused hf hr, enabled_of_marked (marked_of_refused hr)⟩

/-- Settles O11: the schedule is no part of the enabling condition, so the turn put first is used, and using it gives back
the state it was put into. -/
theorem anyEnabledAgentMayGoFirst : Obligations.AnyEnabledAgentMayGoFirst := by
  intro s a hwf ha
  have hen : enabled a { s with schedule := a :: s.schedule } = true := ha
  exact step_of_turn (s := { s with schedule := a :: s.schedule }) hwf rfl hen

end Sys2Proof.Machine

/-! # `PINIT`, and the end of a run (spec/70_reset_and_hazards.md R293, R311)

In a complete state only the Timer is enabled, and a Timer step in CTC, or with the timer stopped, moves nothing that is
observed. -/

namespace Sys2Proof.Machine

/-! ## `PINIT` -/

theorem pinitStep_of_not_capTaken {s : State} (hcap : s.capTaken = false) :
    pinitStep s = .next (itemDone none { s with pin := false, capTaken := true }) :=
  if_neg (Bool.eq_false_iff.mp hcap)

theorem pinitStep_of_capTaken {s : State} (hcap : s.capTaken = true) :
    pinitStep s = .next (refuse .capabilityTwice s) :=
  if_pos hcap

/-- The end of an item without a result only moves `mpos` on. -/
theorem itemDone_none (s : State) : itemDone none s = { s with mpos := s.mpos + 1 } := by
  simp [itemDone]

/-- Settles O49: `PINIT` has one equation without the capability and one with it. -/
theorem pinitTakesTheCapabilityOnce : Obligations.PinitTakesTheCapabilityOnce := by
  intro s hc hit
  rw [mainlineStep_item hc hit, itemStep]
  constructor
  · intro hcap
    rw [pinitStep_of_not_capTaken hcap, itemDone_none]
  · intro hcap hr
    rw [pinitStep_of_capTaken hcap, refuse_of_unrefused _ hr]

/-! ## The end of a run -/

/-- R266: taking a turn is bookkeeping of the model's own. -/
theorem turnTaken_frame (s : State) :
    ∃ schedule draws, turnTaken s = { s with schedule := schedule, draws := draws } := by
  unfold turnTaken
  split <;> exact ⟨_, _, rfl⟩

/-- R160 to R164: a Timer step with the timer stopped or in CTC changes at most `cnt`, `phase` and `flag`, and the flag
only where the timer runs. -/
theorem timerStep_frame_of_ctc {s t : State} (h : timerStep s = .next t) (hmode : s.cs = 0 ∨ s.wgm = ctcMode) :
    ∃ cnt phase flag, t = { s with cnt := cnt, phase := phase, flag := flag } ∧ (s.cs = 0 → flag = s.flag) := by
  by_cases hcs : s.cs = 0
  · rw [timerStep_stopped hcs] at h
    cases h
    exact ⟨_, _, _, rfl, fun _ => rfl⟩
  have hwgm := hmode.resolve_left hcs
  by_cases hd : s.phase + 1 = divider s.params s.cs
  · by_cases hcnt : s.cnt = s.ocr
    · rw [timerStep_match ⟨hwgm, hcs, hd, hcnt⟩] at h
      cases h
      exact ⟨_, _, _, rfl, fun h0 => absurd h0 hcs⟩
    · rw [timerStep_count hcs hd hwgm hcnt] at h
      cases h
      exact ⟨_, _, _, rfl, fun _ => rfl⟩
  · rw [timerStep_short hcs hd] at h
    cases h
    exact ⟨_, _, _, rfl, fun _ => rfl⟩

theorem complete.mainlineReady_eq_false {s : State} (h : complete s) : mainlineReady s = false := by
  obtain ⟨hpos, hcall, -⟩ := h
  simp [mainlineReady, hpos, hcall]

theorem complete.irqRequest_eq_false {s : State} (h : complete s) : irqRequest s = false := by
  obtain ⟨-, -, -, -, hmask | hmask | ⟨-, hmask⟩⟩ := h <;> simp [irqRequest, hmask]

/-- R311: in a complete state only the Timer has a step. -/
theorem complete.eq_timer_of_enabled {s : State} {a : Agent} (h : complete s) (ha : enabled a s = true) :
    a = .timer := by
  cases a with
  | mainline => simp [enabled, h.mainlineReady_eq_false] at ha
  | timer => rfl
  | interrupt => simp [enabled, h.irqRequest_eq_false] at ha

/-- Settles O59: the step is the Timer's. It can change the flag only of a running timer, and completeness then rests on a
masked interrupt, not on the flag. -/
theorem completeRunKeepsItsObservation : Obligations.CompleteRunKeepsItsObservation := by
  intro s t hwf hc hmode hstep
  obtain ⟨a, hen, ha⟩ := everyStepIsOneAgentsStep s t hwf hstep
  obtain rfl := hc.eq_timer_of_enabled hen
  obtain ⟨schedule, draws, hturn⟩ := turnTaken_frame s
  rw [hturn] at ha
  obtain ⟨cnt, phase, flag, rfl, hstopped⟩ := timerStep_frame_of_ctc ha hmode
  obtain ⟨hpos, hcall, hf, hr, hmask⟩ := hc
  refine ⟨⟨hpos, hcall, hf, hr, ?_⟩, rfl, rfl⟩
  exact hmask.imp_right (Or.imp_right fun ⟨hcs, hflag⟩ => ⟨hcs, (hstopped hcs).trans hflag⟩)

end Sys2Proof.Machine
